-- ==== Sys2Proof/Word.lean ====
section
/-! DEFINITION. The word and byte types of CV-CORE (R12, R14): registers and bus data are 32 bits, bytes are 8 bits,
and every value is unsigned. -/

namespace Sys2Proof

/-- A 32-bit register value or bus word (R12, R19). `+` on it is addition modulo 2^32 (R14). -/
abbrev Word := BitVec 32

/-- A byte (R14). -/
abbrev Byte := BitVec 8

/-- A byte offset in the 4096-byte register window, 0x000 to 0xFFF (R60, R53). -/
abbrev Offset := BitVec 12

/-- A 16-byte block (R11, R19), byte 0 first. -/
abbrev Block := Vector Byte 16

end Sys2Proof
end

