-- ==== Sys2Proof/Syntax.lean ====
section
/-! DEFINITION. The 15 commands of CV-CORE, one constructor for each row of the opcode map (R92), with the
operand fields of their layouts (R91). Every other operand is implicit. -/

namespace Sys2Proof

/-- The KSRC field of KEY_EXPAND (R145): `key` is KSRC = 0, the KEY registers; `hash` is KSRC = 1, the HASH registers. -/
inductive KeySource where
  | key
  | hash
  deriving DecidableEq, Repr

/-- The IVSRC field of CBC_ENC_START (R201): `rng` is IVSRC = 0, the entropy port; `iv` is IVSRC = 1, the IV registers. -/
inductive IvSource where
  | rng
  | iv
  deriving DecidableEq, Repr

/-- A command (R92). -/
inductive Instr where
  /-- NOP (R224). -/
  | nop
  /-- CLEAR (R225). -/
  | clear
  /-- SHA_INIT (R116). -/
  | shaInit
  /-- SHA_BLOCK (R117). -/
  | shaBlock
  /-- SHA_FINAL n (R118): n is the byte count N6 of layout L6. -/
  | shaFinal (n : Nat)
  /-- KEY_EXPAND s (R145). -/
  | keyExpand (s : KeySource)
  /-- AES_ENC (R173). -/
  | aesEnc
  /-- AES_DEC (R174). -/
  | aesDec
  /-- PAD n (R193): n is the byte count N4 of layout L4. -/
  | pad (n : Nat)
  /-- UNPAD (R194). -/
  | unpad
  /-- CBC_ENC_START s (R201). -/
  | cbcEncStart (s : IvSource)
  /-- CBC_ENC_BLOCK (R203). -/
  | cbcEncBlock
  /-- CBC_DEC_START (R204). -/
  | cbcDecStart
  /-- CBC_DEC_BLOCK (R205). -/
  | cbcDecBlock
  /-- CBC_ABORT (R206). -/
  | cbcAbort
  deriving DecidableEq, Repr

end Sys2Proof
end

