-- ==== Sys2Proof/WellFormed.lean ====
section
/-! DEFINITION. Which commands an encoding exists for: the byte counts fit their fields (R91). -/

namespace Sys2Proof

/-- R91: N6 of SHA_FINAL is 0..63, N4 of PAD is 0..15; no other command has a restricted operand. -/
def Instr.wellFormed : Instr → Bool
  | .nop => true
  | .clear => true
  | .shaInit => true
  | .shaBlock => true
  | .shaFinal n => n < 64
  | .keyExpand _ => true
  | .aesEnc => true
  | .aesDec => true
  | .pad n => n < 16
  | .unpad => true
  | .cbcEncStart _ => true
  | .cbcEncBlock => true
  | .cbcDecStart => true
  | .cbcDecBlock => true
  | .cbcAbort => true

end Sys2Proof
end

