-- ==== Sys2Proof/Decode.lean ====
section
/-! DEFINITION. The command encoding: the layouts (R91), the opcode map (R92), the total decoder (R93, R94) and,
after it, the encoder (R97 `encode`). -/

namespace Sys2Proof

/-- The four operand layouts (R91). -/
inductive Layout where
  | l0
  | l1
  | l4
  | l6
  deriving DecidableEq, Repr

/-- The mask of a layout's rows (R92): OP, RSVD and every ARG bit the layout does not use are compared. -/
def Layout.mask : Layout → Word
  | .l0 => 0xFFFFFFFF#32
  | .l1 => 0xFFFFFEFF#32
  | .l4 => 0xFFFFF0FF#32
  | .l6 => 0xFFFFC0FF#32

/-- OP, bits 7:0 (R90). -/
def opField (v : Word) : BitVec 8 := v.extractLsb' 0 8

/-- RSVD, bits 31:16 (R90). -/
def rsvdField (v : Word) : BitVec 16 := v.extractLsb' 16 16

/-- S of layout L1, bit 8, read as KSRC (R91, R145). -/
def ksrcField (v : Word) : KeySource := if v.getLsbD 8 then .hash else .key

/-- S of layout L1, bit 8, read as IVSRC (R91, R201). -/
def ivsrcField (v : Word) : IvSource := if v.getLsbD 8 then .iv else .rng

/-- N4 of layout L4, bits 11:8, unsigned (R91). -/
def n4Field (v : Word) : Nat := (v.extractLsb' 8 4).toNat

/-- N6 of layout L6, bits 13:8, unsigned (R91). -/
def n6Field (v : Word) : Nat := (v.extractLsb' 8 6).toNat

/-- A row of the opcode map (R92): the match value, the layout that gives the mask, and the command with its fields. -/
structure OpRow where
  pattern : Word
  layout : Layout
  build : Word → Instr

/-- The opcode map (R92), in its order. -/
def opcodeMap : List OpRow :=
  [ ⟨0x00000000#32, .l0, fun _ => .nop⟩,
    ⟨0x00000001#32, .l0, fun _ => .clear⟩,
    ⟨0x00000010#32, .l0, fun _ => .shaInit⟩,
    ⟨0x00000011#32, .l0, fun _ => .shaBlock⟩,
    ⟨0x00000012#32, .l6, fun v => .shaFinal (n6Field v)⟩,
    ⟨0x00000020#32, .l1, fun v => .keyExpand (ksrcField v)⟩,
    ⟨0x00000021#32, .l0, fun _ => .aesEnc⟩,
    ⟨0x00000022#32, .l0, fun _ => .aesDec⟩,
    ⟨0x00000030#32, .l4, fun v => .pad (n4Field v)⟩,
    ⟨0x00000031#32, .l0, fun _ => .unpad⟩,
    ⟨0x00000040#32, .l1, fun v => .cbcEncStart (ivsrcField v)⟩,
    ⟨0x00000041#32, .l0, fun _ => .cbcEncBlock⟩,
    ⟨0x00000042#32, .l0, fun _ => .cbcDecStart⟩,
    ⟨0x00000043#32, .l0, fun _ => .cbcDecBlock⟩,
    ⟨0x00000044#32, .l0, fun _ => .cbcAbort⟩ ]

/-- R92: v selects the row's command when (v ∧ mask) = match. -/
def OpRow.selects (r : OpRow) (v : Word) : Bool := v &&& r.layout.mask == r.pattern

/-- The three cases of R94 that make a word illegal. Where several hold, the model names the first of this list
(log entry 9); all of them complete with ILLCMD. -/
inductive IllegalWord where
  /-- (a) OP is an unassigned value. -/
  | unassignedOp
  /-- (b) RSVD is not 0. -/
  | reservedBits
  /-- (c) an ARG bit that the opcode's layout does not use is 1. -/
  | unusedArgBits
  deriving DecidableEq, Repr

/-- Why a word that no row selects is illegal (R94). -/
def illegalReason (v : Word) : IllegalWord :=
  if opcodeMap.all (fun r => opField r.pattern != opField v) then .unassignedOp
  else if rsvdField v != 0#16 then .reservedBits
  else .unusedArgBits

/-- R93: total on every 32-bit word; the first row that selects v decides, and no row means ILLEGAL. -/
def decode (v : Word) : Except IllegalWord Instr :=
  match opcodeMap.find? (fun r => r.selects v) with
  | some r => .ok (r.build v)
  | none => .error (illegalReason v)

/-- The host's reading of the opcode table: the command in the first nbits bits of w, the bits above them 0. The
hardware takes a command as the one 32-bit value of a CMD write (R90, R81), so there are no bytes to lay out. -/
def decodeTableWord (nbits w : Nat) : Option Instr :=
  (decode (BitVec.ofNat 32 (w % 2 ^ nbits))).toOption

/-- Bit 8 of the word for KSRC (R91). -/
def KeySource.bit : KeySource → Word
  | .key => 0x000#32
  | .hash => 0x100#32

/-- Bit 8 of the word for IVSRC (R91). -/
def IvSource.bit : IvSource → Word
  | .rng => 0x000#32
  | .iv => 0x100#32

/-- A byte count in the ARG field, v[15:8] (R90, R91). A count beyond the field spills into the bits above it, modulo
2^24: the spec gives no word for one, and this is the model's choice (log entry 12). -/
def countField (n : Nat) : Word := BitVec.ofNat 32 n <<< 8

/-- The word of a command, built from R90-R92 with RSVD = 0 and unused ARG bits 0 (R97). -/
def encode : Instr → Word
  | .nop => 0x00#32
  | .clear => 0x01#32
  | .shaInit => 0x10#32
  | .shaBlock => 0x11#32
  | .shaFinal n => 0x12#32 ||| countField n
  | .keyExpand s => 0x20#32 ||| s.bit
  | .aesEnc => 0x21#32
  | .aesDec => 0x22#32
  | .pad n => 0x30#32 ||| countField n
  | .unpad => 0x31#32
  | .cbcEncStart s => 0x40#32 ||| s.bit
  | .cbcEncBlock => 0x41#32
  | .cbcDecStart => 0x42#32
  | .cbcDecBlock => 0x43#32
  | .cbcAbort => 0x44#32

end Sys2Proof
end

