-- ==== Sys2Proof/Machine/State.lean ====
section
/-! DEFINITION. The state of CV-CORE: the record of R20 as `Device`, the outside world of the block and the draws of
R13 beside it in `State`, the reset state (R270), and the reasons a step can stop. -/

namespace Sys2Proof.Machine

/-- STATUS.MODE, the CBC session (R30). The fourth code is never produced (R30, R49f), so the type has three values. -/
inductive Mode where
  | idle
  | enc
  | dec
  deriving DecidableEq, Repr

/-- STATUS.ERR, the error code of the last completed command (R32, R241). Codes 7 to 15 are never written, so the
type has the seven values of the table. -/
inductive ErrCode where
  | ok
  | rngfail
  | badlen
  | badpad
  | illcmd
  | seq
  | nokey
  deriving DecidableEq, Repr

/-- The complete state of CV-CORE: exactly the fields of R20. -/
structure Device where
  /-- CTRL.IE (R24). -/
  ie : Bool
  /-- STATUS.BUSY (R26). -/
  busy : Bool
  /-- STATUS.DONE (R27). -/
  done : Bool
  /-- STATUS.KEYVALID (R28). -/
  keyvalid : Bool
  /-- STATUS.SHAACT (R29). -/
  shaact : Bool
  /-- STATUS.MODE (R30). -/
  mode : Mode
  /-- STATUS.WOB (R31). -/
  wob : Bool
  /-- STATUS.ERR (R32). -/
  err : ErrCode
  /-- LEN (R34). -/
  len : Word
  /-- CNT (R35). -/
  cnt : BitVec 4
  /-- BLKREM (R36). -/
  blkrem : BitVec 29
  /-- TAIL (R37). -/
  tail : BitVec 4
  /-- KEY0-KEY7 (R38). -/
  key : Vector Word 8
  /-- DIN0-DIN3 (R39). -/
  din : Vector Word 4
  /-- DOUT0-DOUT3 (R40). -/
  dout : Vector Word 4
  /-- IV0-IV3 (R41). -/
  iv : Vector Word 4
  /-- CHAIN0-CHAIN3 (R42). -/
  chain : Vector Word 4
  /-- MSG0-MSG15 (R43). -/
  msg : Vector Word 16
  /-- HASH0-HASH7 (R44). -/
  hash : Vector Word 8
  /-- SHALEN_HI:SHALEN_LO (R45). -/
  shalen : BitVec 64
  /-- RK0-RK59 (R46). -/
  rk : Vector Word 60
  /-- The command word accepted and not yet completed (R48). -/
  pending : Option Word
  deriving DecidableEq, Repr

/-- The device state after reset (R270): every field has a stated value. -/
def Device.reset : Device where
  ie := false
  busy := false
  done := false
  keyvalid := false
  shaact := false
  mode := .idle
  wob := false
  err := .ok
  len := 0#32
  cnt := 0#4
  blkrem := 0#29
  tail := 0#4
  key := Vector.replicate 8 0#32
  din := Vector.replicate 4 0#32
  dout := Vector.replicate 4 0#32
  iv := Vector.replicate 4 0#32
  chain := Vector.replicate 4 0#32
  msg := Vector.replicate 16 0#32
  hash := Vector.replicate 8 0#32
  shalen := 0#64
  rk := Vector.replicate 60 0#32
  pending := none

/-- What a reset coincides with (R253): nothing, a host transaction, or the completion that is due. In each case reset
wins: nothing of the other event is done. -/
inductive Coincidence where
  | nothing
  | read (off : Offset) (size : Nat)
  | write (off : Offset) (size : Nat) (v : Word)
  | completion
  deriving DecidableEq, Repr

/-- What the host or the platform does at the block's ports, in arrival order (R77). -/
inductive Action where
  /-- BusRead of `size` bits at an offset (R53, R70). -/
  | read (off : Offset) (size : Nat)
  /-- BusWrite of `size` bits at an offset (R53, R71). A transaction of another size than 32 has no effect, so
  only a 32-bit value is carried (log entry 10). -/
  | write (off : Offset) (size : Nat) (v : Word)
  /-- A 32-bit BusRead whose value the host script asserts: the value masked must equal `want` (R97, R98). -/
  | check (off : Offset) (mask want : Word)
  /-- The pseudo-instruction `wait` (R98): a read of STATUS that is repeated while its BUSY bit is 1. -/
  | poll
  /-- The reset input (R55, R270), with the event it coincides with, if any (R253). -/
  | reset (c : Coincidence)
  deriving DecidableEq, Repr

/-- How a bus transaction completes (R53): OKAY with 32 bits of data, OKAY of a write, or ERROR (R76). -/
inductive Response where
  | data (v : Word)
  | okay
  | error
  deriving DecidableEq, Repr

/-- How many values of each open parameter have been drawn: those of R13 (log entry 3), and the responses of
transactions that a reset cut off (R253; log entry 17). -/
structure Draws where
  lat : Nat
  entropy : Nat
  busyRead : Nat
  cut : Nat
  deriving DecidableEq, Repr

/-- The machine's state: the block (R20), and beside it the model's own fields for the outside world and the draws.
None of the latter is state of CV-CORE. -/
structure State where
  /-- The block's state (R20). -/
  dev : Device
  /-- The host's and the platform's actions still to come, first to arrive first (R77; log entry 1). -/
  script : List Action
  /-- Host actions still to happen before the pending command completes (R13a, R221; log entry 2). -/
  lat : Nat
  /-- How many draws have been made (R13; log entries 3 and 17). -/
  draws : Draws
  /-- The port's responses so far, newest first (R53; log entry 4). -/
  log : List Response
  /-- How many `check` assertions of the host script have failed (R97; log entry 4). -/
  failed : Nat
  deriving DecidableEq, Repr

/-- The machine right after reset (R270), with nothing for the host to do. -/
def State.reset : State where
  dev := Device.reset
  script := []
  lat := 0
  draws := ⟨0, 0, 0, 0⟩
  log := []
  failed := 0

/-- The reasons a step stops. CV-CORE has no fault of its own: a failing command completes with a code in
STATUS.ERR (R240). -/
inductive Fault where
  /-- Raised by the completion step in a state with BUSY = 1 and no pending command. R48 and R49(d) say no run
  reaches such a state, and the spec gives the step no effect there. Safe: the model stops where it could say
  nothing (log entry 6). -/
  | noPendingCommand
  deriving DecidableEq, Repr

/-- The reasons an instruction has no meaning. -/
inductive Refusal where
  /-- Raised by `exec` for a command whose meaning is not written yet; safe. No arm raises it. -/
  | notModelled (mnemonic : String)
  deriving DecidableEq, Repr

end Sys2Proof.Machine
end

