-- ==== Sys2Proof/Config.lean ====
section
/-! DEFINITION. The parameters the spec leaves open (R13; OPEN parameters of 92_eei_decisions.md). Each is a constant
with no value: nothing can be proved of it, so a theorem of the model holds whatever it is. -/

namespace Sys2Proof.Config

open Sys2Proof.Machine

/-- `base` (R61): the window sits at 4096 times this number in the host's address map. -/
opaque baseIndex : Nat

/-- `lat` (R13a, R281): the latency of the n-th accepted command. It also sees the whole device state at
acceptance, since it may depend on the command's data and on the key (R282; log entry 2). -/
opaque lat (n : Nat) (d : Device) : Nat

/-- `entropy` (R13b, R57): the entropy port's answer to the n-th request, 16 bytes or a failure (log entry 3). -/
opaque entropy (n : Nat) : Option Block

/-- `busy_read` (R13c, R75): the value of the n-th read of a result register while BUSY = 1. It also sees the
device state and the offset, so that no two reads are tied together (log entry 3). -/
opaque busyRead (n : Nat) (d : Device) (off : Offset) : Word

/-- What the port answers the n-th transaction that coincides with a reset, if it answers at all: the spec gives the
state after it (R253) and no response. It sees the device state before the reset and the offset (log entry 17). -/
opaque cutResponse (n : Nat) (d : Device) (off : Offset) : Option Response

/-- `base` itself, aligned to 4096 bytes (R61). -/
def base : Nat := 4096 * baseIndex

end Sys2Proof.Config
end

