-- ==== Sys2Proof/Machine/Flags.lean ====
section
/-! DEFINITION. The flags of STATUS: their codes, the STATUS word (R25, R70), the write-one-to-clear bits (R25), and
the interrupt output (R54, R251). -/

namespace Sys2Proof.Machine

/-- The code of MODE in STATUS bits 5:4 (R30). -/
def Mode.code : Mode → BitVec 2
  | .idle => 0#2
  | .enc => 1#2
  | .dec => 2#2

/-- The code of ERR in STATUS bits 11:8 (R32, R241). -/
def ErrCode.code : ErrCode → BitVec 4
  | .ok => 0#4
  | .rngfail => 1#4
  | .badlen => 2#4
  | .badpad => 3#4
  | .illcmd => 4#4
  | .seq => 5#4
  | .nokey => 6#4

/-- The STATUS word (R70): zext_32(ERR ‖ 0b0 ‖ WOB ‖ MODE ‖ SHAACT ‖ KEYVALID ‖ DONE ‖ BUSY). -/
def statusWord (d : Device) : Word :=
  (d.err.code ++ 0#1 ++ BitVec.ofBool d.wob ++ d.mode.code ++ BitVec.ofBool d.shaact ++
    BitVec.ofBool d.keyvalid ++ BitVec.ofBool d.done ++ BitVec.ofBool d.busy).setWidth 32

/-- The CTRL word (R24): IE in bit 0, the other bits 0. -/
def ctrlWord (d : Device) : Word := (BitVec.ofBool d.ie).setWidth 32

/-- A write of v to STATUS (R25, R71): DONE and WOB are cleared where v has a 1; nothing else changes. -/
def clearFlags (v : Word) (d : Device) : Device :=
  { d with done := d.done && !v.getLsbD 1, wob := d.wob && !v.getLsbD 6 }

/-- The interrupt output (R54, R251): irq = CTRL.IE ∧ STATUS.DONE. -/
def irq (d : Device) : Bool := d.ie && d.done

end Sys2Proof.Machine
end

