-- ==== Sys2Proof/Machine/Operands.lean ====
section
/-! DEFINITION. Operand forms: the big-endian packing of bytes into registers (R15, R66) and the bit operations the
rules use (R14). -/

namespace Sys2Proof.Machine

/-- `BE32` (R15): the word whose most significant byte is b0. -/
def be32 (b0 b1 b2 b3 : Byte) : Word := b0 ++ b1 ++ b2 ++ b3

/-- Byte j of `bytes(w)` (R15): bits (31 − 8j):(24 − 8j). -/
def wordByte (w : Word) (j : Nat) : Byte := w.extractLsb' (24 - 8 * j) 8

/-- `BYTES(R)` (R15, R66): a group of k registers as 4k bytes. -/
def bytesOf {k : Nat} (r : Vector Word k) : Vector Byte (4 * k) :=
  Vector.ofFn fun i => wordByte (r[i.val / 4]'(by omega)) (i.val % 4)

/-- `WORDS(B)` (R15): 4k bytes as a group of k registers. -/
def wordsOf {k : Nat} (b : Vector Byte (4 * k)) : Vector Word k :=
  Vector.ofFn fun j => be32 b[4 * j.val] b[4 * j.val + 1] b[4 * j.val + 2] b[4 * j.val + 3]

/-- The first n bytes of a list as a vector; bytes the list does not have are 0x00. -/
def bytesOfList (n : Nat) (bs : List Byte) : Vector Byte n :=
  Vector.ofFn fun i => bs.getD i.val 0#8

/-- `B ⊕ C` bytewise on blocks (R14). -/
def xorBlock (a b : Block) : Block := Vector.ofFn fun i => a[i] ^^^ b[i]

/-- `ROTR(x, n)` (R14). -/
def rotr (x : Word) (n : Nat) : Word := x.rotateRight n

/-- `SHR(x, n)` (R14). -/
def shr (x : Word) (n : Nat) : Word := x >>> n

/-- The eight bytes of a 64-bit value, most significant first: [L[63:56], …, L[7:0]] (R115). -/
def be64Bytes (l : BitVec 64) : List Byte :=
  [l.extractLsb' 56 8, l.extractLsb' 48 8, l.extractLsb' 40 8, l.extractLsb' 32 8,
   l.extractLsb' 24 8, l.extractLsb' 16 8, l.extractLsb' 8 8, l.extractLsb' 0 8]

end Sys2Proof.Machine
end

