-- ==== Sys2Proof/Machine/Ops.lean ====
section
/-! DEFINITION. The operations the commands and the bus share: the two events of a command (R220, R222), failing
with an error code, which is all that taking an exception is on this hardware (R240, R254), the entropy request
(R57), reset (R270), and the record a transaction leaves. There is no return from an exception (R255). -/

namespace Sys2Proof.Machine

/-- `accept(v)` on the block (R220). -/
def Device.accept (v : Word) (d : Device) : Device :=
  { d with pending := some v, busy := true, done := false }

/-- `accept(v)` (R220), with the latency of this command drawn (R13a, R221). -/
def accept (v : Word) (s : State) : State :=
  let d := s.dev.accept v
  { s with dev := d
           lat := Config.lat s.draws.lat d
           draws := { s.draws with lat := s.draws.lat + 1 } }

/-- `complete(code)` on the block (R222). -/
def Device.complete (code : ErrCode) (d : Device) : Device :=
  { d with err := code, busy := false, done := true, pending := none }

/-- The end of a command that has made the block `d` (R222): its writes and `complete(code)` are one atomic step. -/
def finish (code : ErrCode) (d : Device) (s : State) : Host.Outcome State Fault Refusal :=
  .next { s with dev := d.complete code }

/-- `raise code` with no other state change (R16, R249): what taking an exception is here (R254). -/
def raise (code : ErrCode) (s : State) : Host.Outcome State Fault Refusal :=
  finish code s.dev s

/-- The completion of a word that decodes as ILLEGAL (R242). -/
def illegalCommand (s : State) : Host.Outcome State Fault Refusal := raise .illcmd s

/-- `Entropy()` (R57): the port's answer to this request, and the state after it. -/
def requestEntropy (s : State) : Option Block × State :=
  (Config.entropy s.draws.entropy,
   { s with draws := { s.draws with entropy := s.draws.entropy + 1 } })

/-- A read of a result register while BUSY = 1 (R75): a draw, and the state after it. -/
def drawBusyRead (off : Offset) (s : State) : Word × State :=
  (Config.busyRead s.draws.busyRead s.dev off,
   { s with draws := { s.draws with busyRead := s.draws.busyRead + 1 } })

/-- A transaction's response is added to the record of the port's responses. -/
def respond (r : Response) (s : State) : State := { s with log := r :: s.log }

/-- A transaction that a reset cuts off (R253): nothing of it is done, and its response is a draw, none or any. -/
def cutTransaction (off : Offset) (s : State) : State :=
  let s' := { s with draws := { s.draws with cut := s.draws.cut + 1 } }
  match Config.cutResponse s.draws.cut s.dev off with
  | some r => respond r s'
  | none => s'

/-- What the event that a reset coincides with leaves outside the block (R253): of a transaction at most its response,
of a completion nothing, not even an entropy request (R271). -/
def cutOff (c : Coincidence) (s : State) : State :=
  match c with
  | .nothing => s
  | .read off _ => cutTransaction off s
  | .write off _ _ => cutTransaction off s
  | .completion => s

/-- Reset (R270, R271): one atomic event on the block; a pending command is abandoned. -/
def resetDevice (s : State) : State := { s with dev := Device.reset, lat := 0 }

end Sys2Proof.Machine
end

