-- ==== Sys2Proof/Machine/Aes.lean ====
section
/-! DEFINITION. AES-256: the field arithmetic and the S-boxes (R160-R163), key expansion (R140-R143), the round
transforms and both ciphers (R164-R172), and the commands KEY_EXPAND, AES_ENC and AES_DEC (R145, R173, R174). -/

namespace Sys2Proof.Machine

/-- `xtime` (R160). -/
def xtime (a : Byte) : Byte := (a <<< 1) ^^^ (if a.getLsbD 7 then 0x1B#8 else 0x00#8)

/-- `gmul(a, b)` = a • b (R160): the sum over the bits i of b that are 1 of xtime^i(a). -/
def gmul (a b : Byte) : Byte :=
  (List.range 8).foldl (fun acc i => if b.getLsbD i then acc ^^^ xtime^[i] a else acc) 0x00#8

/-- The forward S-box (R162): row Hx of the rule's table, its 16 entries from column x0 to column xF. -/
def sboxRows : List Nat :=
  [0x637c777bf26b6fc53001672bfed7ab76,
   0xca82c97dfa5947f0add4a2af9ca472c0,
   0xb7fd9326363ff7cc34a5e5f171d83115,
   0x04c723c31896059a071280e2eb27b275,
   0x09832c1a1b6e5aa0523bd6b329e32f84,
   0x53d100ed20fcb15b6acbbe394a4c58cf,
   0xd0efaafb434d338545f9027f503c9fa8,
   0x51a3408f929d38f5bcb6da2110fff3d2,
   0xcd0c13ec5f974417c4a77e3d645d1973,
   0x60814fdc222a908846eeb814de5e0bdb,
   0xe0323a0a4906245cc2d3ac629195e479,
   0xe7c8376d8dd54ea96c56f4ea657aae08,
   0xba78252e1ca6b4c6e8dd741f4bbd8b8a,
   0x703eb5664803f60e613557b986c11d9e,
   0xe1f8981169d98e949b1e87e9ce5528df,
   0x8ca1890dbfe6426841992d0fb054bb16]

/-- The inverse S-box (R163), in the same layout. -/
def invSboxRows : List Nat :=
  [0x52096ad53036a538bf40a39e81f3d7fb,
   0x7ce339829b2fff87348e4344c4dee9cb,
   0x547b9432a6c2233dee4c950b42fac34e,
   0x082ea16628d924b2765ba2496d8bd125,
   0x72f8f66486689816d4a45ccc5d65b692,
   0x6c704850fdedb9da5e154657a78d9d84,
   0x90d8ab008cbcd30af7e45805b8b34506,
   0xd02c1e8fca3f0f02c1afbd0301138a6b,
   0x3a9111414f67dcea97f2cfcef0b4e673,
   0x96ac7422e7ad3585e2f937e81c75df6e,
   0x47f11a711d29c5896fb7620eaa18be1b,
   0xfc563e4bc6d279209adbc0fe78cd5af4,
   0x1fdda8338807c731b11210592780ec5f,
   0x60517fa919b54a0d2de57a9f93c99cef,
   0xa0e03b4dae2af5b0c8ebbb3c83539961,
   0x172b047eba77d626e169146355210c7d]

/-- The entry of a table for the byte 0xHL: row H, column L. -/
def tableByte (rows : List Nat) (a : Byte) : Byte :=
  BitVec.ofNat 8 (rows.getD (a.toNat / 16) 0 >>> (8 * (15 - a.toNat % 16)))

/-- S[a] (R162). R161 says a model may use the tables. -/
def sbox (a : Byte) : Byte := tableByte sboxRows a

/-- InvS[a] (R163). -/
def invSbox (a : Byte) : Byte := tableByte invSboxRows a

/-- Rcon[j] for j = 1..7 (R140): the byte x^(j−1). -/
def rcon (j : Nat) : Byte := xtime^[j - 1] 0x01#8

/-- RotWord (R141): one byte to the left. -/
def rotWord (w : Word) : Word := be32 (wordByte w 1) (wordByte w 2) (wordByte w 3) (wordByte w 0)

/-- SubWord (R142): S on each byte. -/
def subWord (w : Word) : Word :=
  be32 (sbox (wordByte w 0)) (sbox (wordByte w 1)) (sbox (wordByte w 2)) (sbox (wordByte w 3))

/-- `temp` of KeyExpansion (R143) for the word index i and the previous word. -/
def expandTemp (i : Nat) (prev : Word) : Word :=
  if i % 8 = 0 then subWord (rotWord prev) ^^^ be32 (rcon (i / 8)) 0#8 0#8 0#8
  else if i % 8 = 4 then subWord prev
  else prev

/-- One word of the schedule (R143) added to w[0..i), with i = |w|. -/
def expandStep (w : List Word) : List Word :=
  let i := w.length
  w ++ [w.getD (i - 8) 0#32 ^^^ expandTemp i (w.getD (i - 1) 0#32)]

/-- KeyExpansion(K) (R143): the eight key words, then 52 steps. -/
def keyExpansion (k : Vector Byte 32) : Vector Word 60 :=
  let w := expandStep^[52] (wordsOf (k := 8) k).toList
  Vector.ofFn fun i => w.getD i.val 0#32

/-- s[r][c] of the AES state (R164). The state is held as its 16 bytes column-major, so loading a block and storing
one change no byte. -/
def entry (s : Block) (r c : Fin 4) : Byte := s[r.val + 4 * c.val]

/-- The AES state with the entries f r c (R164). -/
def ofEntries (f : Fin 4 → Fin 4 → Byte) : Block :=
  Vector.ofFn fun i => f ⟨i.val % 4, by omega⟩ ⟨i.val / 4, by omega⟩

/-- SubBytes (R165). -/
def subBytes (s : Block) : Block := ofEntries fun r c => sbox (entry s r c)

/-- InvSubBytes (R165). -/
def invSubBytes (s : Block) : Block := ofEntries fun r c => invSbox (entry s r c)

/-- ShiftRows (R166): s'[r][c] = s[r][(c + r) mod 4]. -/
def shiftRows (s : Block) : Block := ofEntries fun r c => entry s r (c + r)

/-- InvShiftRows (R167): s'[r][c] = s[r][(c − r) mod 4]. -/
def invShiftRows (s : Block) : Block := ofEntries fun r c => entry s r (c - r)

/-- One entry of a column times a matrix row: m0•s0 ⊕ m1•s1 ⊕ m2•s2 ⊕ m3•s3 (R168, R169). -/
def mixEntry (m0 m1 m2 m3 : Byte) (s : Block) (c : Fin 4) : Byte :=
  gmul m0 (entry s 0 c) ^^^ gmul m1 (entry s 1 c) ^^^ gmul m2 (entry s 2 c) ^^^ gmul m3 (entry s 3 c)

/-- MixColumns (R168). -/
def mixColumns (s : Block) : Block :=
  ofEntries fun r c =>
    match r with
    | 0 => mixEntry 0x02#8 0x03#8 0x01#8 0x01#8 s c
    | 1 => mixEntry 0x01#8 0x02#8 0x03#8 0x01#8 s c
    | 2 => mixEntry 0x01#8 0x01#8 0x02#8 0x03#8 s c
    | 3 => mixEntry 0x03#8 0x01#8 0x01#8 0x02#8 s c

/-- InvMixColumns (R169). -/
def invMixColumns (s : Block) : Block :=
  ofEntries fun r c =>
    match r with
    | 0 => mixEntry 0x0e#8 0x0b#8 0x0d#8 0x09#8 s c
    | 1 => mixEntry 0x09#8 0x0e#8 0x0b#8 0x0d#8 s c
    | 2 => mixEntry 0x0d#8 0x09#8 0x0e#8 0x0b#8 s c
    | 3 => mixEntry 0x0b#8 0x0d#8 0x09#8 0x0e#8 s c

/-- AddRoundKey(rnd) (R170): s'[r][c] = s[r][c] ⊕ bytes(RK[4·rnd + c])[r]. -/
def addRoundKey (rk : Vector Word 60) (rnd : Fin 15) (s : Block) : Block :=
  ofEntries fun r c => entry s r c ^^^ wordByte (rk[4 * rnd.val + c.val]'(by omega)) r.val

/-- A round 1..13 of Cipher (R171). -/
def encRound (rk : Vector Word 60) (s : Block) (rnd : Fin 15) : Block :=
  addRoundKey rk rnd (mixColumns (shiftRows (subBytes s)))

/-- Cipher(B, RK) (R171). -/
def cipher (b : Block) (rk : Vector Word 60) : Block :=
  let s := [1, 2, 3, 4, 5, 6, 7, 8, 9, 10, 11, 12, 13].foldl (encRound rk) (addRoundKey rk 0 b)
  addRoundKey rk 14 (shiftRows (subBytes s))

/-- A round 13..1 of InvCipher (R172). -/
def decRound (rk : Vector Word 60) (s : Block) (rnd : Fin 15) : Block :=
  invMixColumns (addRoundKey rk rnd (invSubBytes (invShiftRows s)))

/-- InvCipher(B, RK) (R172). -/
def invCipher (b : Block) (rk : Vector Word 60) : Block :=
  let s := [13, 12, 11, 10, 9, 8, 7, 6, 5, 4, 3, 2, 1].foldl (decRound rk) (addRoundKey rk 14 b)
  addRoundKey rk 0 (invSubBytes (invShiftRows s))

/-- The key KEY_EXPAND takes (R145): BYTES(KEY) for KSRC = 0, BYTES(HASH) for KSRC = 1. -/
def keyBytes (src : KeySource) (d : Device) : Vector Byte 32 :=
  match src with
  | .key => bytesOf d.key
  | .hash => bytesOf d.hash

/-- DIN as the 16-byte block BYTES(DIN) (R39). -/
def dinBytes (d : Device) : Block := bytesOf d.din

/-- A block as four registers, WORDS(B) (R15). -/
def blockWords (b : Block) : Vector Word 4 := wordsOf (k := 4) b

/-- KEY_EXPAND s (R145). -/
def execKeyExpand (src : KeySource) (s : State) : Host.Outcome State Fault Refusal :=
  if s.dev.mode ≠ .idle then raise .seq s
  else finish .ok { s.dev with rk := keyExpansion (keyBytes src s.dev), keyvalid := true } s

/-- AES_ENC (R173). -/
def execAesEnc (s : State) : Host.Outcome State Fault Refusal :=
  if s.dev.keyvalid = false then raise .nokey s
  else finish .ok { s.dev with dout := blockWords (cipher (dinBytes s.dev) s.dev.rk) } s

/-- AES_DEC (R174). -/
def execAesDec (s : State) : Host.Outcome State Fault Refusal :=
  if s.dev.keyvalid = false then raise .nokey s
  else finish .ok { s.dev with dout := blockWords (invCipher (dinBytes s.dev) s.dev.rk) } s

end Sys2Proof.Machine
end

