-- ==== Sys2Proof/Machine/Pkcs7.lean ====
section
/-! DEFINITION. PKCS#7 on one block: PadBlock and UnpadOK (R190, R192), and the commands PAD and UNPAD (R193, R194). -/

namespace Sys2Proof.Machine

/-- PadBlock(T, n) (R190): T ‖ [16 − n] × (16 − n). -/
def padBlock (t : List Byte) (n : Nat) : Block :=
  bytesOfList 16 (t ++ List.replicate (16 - n) (BitVec.ofNat 8 (16 - n)))

/-- p = X[15], the pad value of a block (R192). -/
def padValue (x : Block) : Nat := x[15].toNat

/-- UnpadOK(X) (R192): 1 ≤ p ≤ 16 and X[i] = p for every i in 16 − p..15. -/
def unpadOK (x : Block) : Bool :=
  1 ≤ padValue x && padValue x ≤ 16 &&
    (List.finRange 16).all fun i => i.val < 16 - padValue x || x[i].toNat == padValue x

/-- CNT of a block that unpads: 16 − p (R194, R229). -/
def unpadCount (x : Block) : BitVec 4 := BitVec.ofNat 4 (16 - padValue x)

/-- A group of four registers, all 0. -/
def zeroWords : Vector Word 4 := Vector.replicate 4 0#32

/-- PAD n (R193). -/
def execPad (n : Nat) (s : State) : Host.Outcome State Fault Refusal :=
  finish .ok { s.dev with dout := blockWords (padBlock ((dinBytes s.dev).toList.take n) n) } s

/-- UNPAD (R194). BADPAD zeroes DOUT and CNT. -/
def execUnpad (s : State) : Host.Outcome State Fault Refusal :=
  if unpadOK (dinBytes s.dev) then
    finish .ok { s.dev with dout := s.dev.din, cnt := unpadCount (dinBytes s.dev) } s
  else finish .badpad { s.dev with dout := zeroWords, cnt := 0#4 } s

end Sys2Proof.Machine
end

