-- ==== Sys2Proof/Machine/Cbc.lean ====
section
/-! DEFINITION. The CBC session commands (R200-R206). -/

namespace Sys2Proof.Machine

/-- CHAIN as the 16 bytes BYTES(CHAIN) (R42). -/
def chainBytes (d : Device) : Block := bytesOf d.chain

/-- BLKREM of an encryption session (R201): ⌊LEN/16⌋ + 1, exact in 29 bits (R229). -/
def encBlocks (len : Word) : BitVec 29 := BitVec.ofNat 29 (len.toNat / 16 + 1)

/-- TAIL of an encryption session (R201): LEN mod 16. -/
def encTail (len : Word) : BitVec 4 := BitVec.ofNat 4 (len.toNat % 16)

/-- The length check of CBC_DEC_START (R204). -/
def decLengthOK (len : Word) : Bool := 32 ≤ len.toNat && (len.toNat - 16) % 16 == 0

/-- BLKREM of a decryption session (R204): (LEN − 16)/16. -/
def decBlocks (len : Word) : BitVec 29 := BitVec.ofNat 29 ((len.toNat - 16) / 16)

/-- The writes of a successful CBC_ENC_START (R201): IV becomes `iv`, CHAIN is copied from it, the session opens. -/
def openEncryption (iv : Vector Word 4) (d : Device) : Device :=
  { d with iv := iv, chain := iv, blkrem := encBlocks d.len, tail := encTail d.len, mode := .enc }

/-- CBC_ENC_START s (R201, R202). The entropy port is asked only after SEQ and NOKEY have passed (R250). -/
def execCbcEncStart (src : IvSource) (s : State) : Host.Outcome State Fault Refusal :=
  if s.dev.mode ≠ .idle then raise .seq s
  else if s.dev.keyvalid = false then raise .nokey s
  else
    match src with
    | .iv => finish .ok (openEncryption s.dev.iv s.dev) s
    | .rng =>
      match requestEntropy s with
      | (none, s') => raise .rngfail s'
      | (some b, s') => finish .ok (openEncryption (blockWords b) s'.dev) s'

/-- P of CBC_ENC_BLOCK (R203): all of DIN, or, for the last block, its first TAIL bytes padded. -/
def encWindow (d : Device) : Block :=
  if 1 < d.blkrem.toNat then dinBytes d
  else padBlock ((dinBytes d).toList.take d.tail.toNat) d.tail.toNat

/-- C of CBC_ENC_BLOCK (R203): Cipher(P ⊕ CHAIN). -/
def encOutput (d : Device) : Block := cipher (xorBlock (encWindow d) (chainBytes d)) d.rk

/-- CBC_ENC_BLOCK (R203). -/
def execCbcEncBlock (s : State) : Host.Outcome State Fault Refusal :=
  if s.dev.mode ≠ .enc then raise .seq s
  else
    let c := blockWords (encOutput s.dev)
    let d := { s.dev with dout := c, chain := c, blkrem := s.dev.blkrem - 1#29 }
    if d.blkrem = 0#29 then finish .ok { d with mode := .idle, tail := 0#4 } s
    else finish .ok d s

/-- CBC_DEC_START (R204). -/
def execCbcDecStart (s : State) : Host.Outcome State Fault Refusal :=
  if s.dev.mode ≠ .idle then raise .seq s
  else if s.dev.keyvalid = false then raise .nokey s
  else if decLengthOK s.dev.len = false then raise .badlen s
  else
    finish .ok { s.dev with chain := s.dev.iv, blkrem := decBlocks s.dev.len, tail := 0#4
                            cnt := 0#4, mode := .dec } s

/-- X of CBC_DEC_BLOCK (R205): InvCipher(c) ⊕ CHAIN. -/
def decOutput (d : Device) : Block := xorBlock (invCipher (dinBytes d) d.rk) (chainBytes d)

/-- CBC_DEC_BLOCK (R205). BADPAD on the last block keeps CHAIN, BLKREM = 0 and MODE = IDLE, and zeroes DOUT and CNT. -/
def execCbcDecBlock (s : State) : Host.Outcome State Fault Refusal :=
  if s.dev.mode ≠ .dec then raise .seq s
  else
    let x := decOutput s.dev
    let d := { s.dev with chain := s.dev.din, blkrem := s.dev.blkrem - 1#29 }
    if d.blkrem ≠ 0#29 then finish .ok { d with dout := blockWords x } s
    else if unpadOK x then
      finish .ok { d with mode := .idle, dout := blockWords x, cnt := unpadCount x } s
    else finish .badpad { d with mode := .idle, dout := zeroWords, cnt := 0#4 } s

/-- CBC_ABORT (R206). -/
def execCbcAbort (s : State) : Host.Outcome State Fault Refusal :=
  finish .ok { s.dev with mode := .idle, blkrem := 0#29, tail := 0#4, chain := zeroWords } s

end Sys2Proof.Machine
end

