-- ==== Sys2Proof/Machine/Control.lean ====
section
/-! DEFINITION. The control commands NOP and CLEAR (R224, R225). -/

namespace Sys2Proof.Machine

/-- The writes of CLEAR (R225): every data register, KEYVALID, SHAACT and MODE; IE and WOB stay. -/
def clearDevice (d : Device) : Device :=
  { d with
    key := Vector.replicate 8 0#32, din := Vector.replicate 4 0#32, dout := Vector.replicate 4 0#32
    iv := Vector.replicate 4 0#32, chain := Vector.replicate 4 0#32
    msg := Vector.replicate 16 0#32, hash := Vector.replicate 8 0#32, shalen := 0#64
    rk := Vector.replicate 60 0#32
    len := 0#32, cnt := 0#4, blkrem := 0#29, tail := 0#4
    keyvalid := false, shaact := false, mode := .idle }

/-- NOP (R224). -/
def execNop (s : State) : Host.Outcome State Fault Refusal := finish .ok s.dev s

/-- CLEAR (R225). -/
def execClear (s : State) : Host.Outcome State Fault Refusal := finish .ok (clearDevice s.dev) s

end Sys2Proof.Machine
end

