-- ==== Sys2Proof/Machine/Sha.lean ====
section
/-! DEFINITION. The SHA-256 pipeline: constants and functions (R110-R115), and the commands SHA_INIT, SHA_BLOCK and
SHA_FINAL (R116-R118). -/

namespace Sys2Proof.Machine

/-- The initial hash value H(0) (R110). -/
def sha256Init : Vector Word 8 :=
  #v[0x6a09e667#32, 0xbb67ae85#32, 0x3c6ef372#32, 0xa54ff53a#32,
     0x510e527f#32, 0x9b05688c#32, 0x1f83d9ab#32, 0x5be0cd19#32]

/-- The round constants K[0..63] (R111), one line for each row of the rule's table. -/
def sha256K : List Word :=
  [0x428a2f98#32, 0x71374491#32, 0xb5c0fbcf#32, 0xe9b5dba5#32, 0x3956c25b#32, 0x59f111f1#32, 0x923f82a4#32, 0xab1c5ed5#32] ++
  [0xd807aa98#32, 0x12835b01#32, 0x243185be#32, 0x550c7dc3#32, 0x72be5d74#32, 0x80deb1fe#32, 0x9bdc06a7#32, 0xc19bf174#32] ++
  [0xe49b69c1#32, 0xefbe4786#32, 0x0fc19dc6#32, 0x240ca1cc#32, 0x2de92c6f#32, 0x4a7484aa#32, 0x5cb0a9dc#32, 0x76f988da#32] ++
  [0x983e5152#32, 0xa831c66d#32, 0xb00327c8#32, 0xbf597fc7#32, 0xc6e00bf3#32, 0xd5a79147#32, 0x06ca6351#32, 0x14292967#32] ++
  [0x27b70a85#32, 0x2e1b2138#32, 0x4d2c6dfc#32, 0x53380d13#32, 0x650a7354#32, 0x766a0abb#32, 0x81c2c92e#32, 0x92722c85#32] ++
  [0xa2bfe8a1#32, 0xa81a664b#32, 0xc24b8b70#32, 0xc76c51a3#32, 0xd192e819#32, 0xd6990624#32, 0xf40e3585#32, 0x106aa070#32] ++
  [0x19a4c116#32, 0x1e376c08#32, 0x2748774c#32, 0x34b0bcb5#32, 0x391c0cb3#32, 0x4ed8aa4a#32, 0x5b9cca4f#32, 0x682e6ff3#32] ++
  [0x748f82ee#32, 0x78a5636f#32, 0x84c87814#32, 0x8cc70208#32, 0x90befffa#32, 0xa4506ceb#32, 0xbef9a3f7#32, 0xc67178f2#32]

/-- Ch (R112). -/
def shaCh (x y z : Word) : Word := (x &&& y) ^^^ (~~~x &&& z)
/-- Maj (R112). -/
def shaMaj (x y z : Word) : Word := (x &&& y) ^^^ (x &&& z) ^^^ (y &&& z)
/-- Σ0 (R112). -/
def bigSigma0 (x : Word) : Word := rotr x 2 ^^^ rotr x 13 ^^^ rotr x 22
/-- Σ1 (R112). -/
def bigSigma1 (x : Word) : Word := rotr x 6 ^^^ rotr x 11 ^^^ rotr x 25
/-- σ0 (R112). -/
def smallSigma0 (x : Word) : Word := rotr x 7 ^^^ rotr x 18 ^^^ shr x 3
/-- σ1 (R112). -/
def smallSigma1 (x : Word) : Word := rotr x 17 ^^^ rotr x 19 ^^^ shr x 10

/-- One word of the message schedule (R113) added to w[0..t), with t = |w|. -/
def scheduleStep (w : List Word) : List Word :=
  let t := w.length
  w ++ [smallSigma1 (w.getD (t - 2) 0#32) + w.getD (t - 7) 0#32 +
        smallSigma0 (w.getD (t - 15) 0#32) + w.getD (t - 16) 0#32]

/-- The message schedule w[0..64) of a 64-byte block (R113): its 16 big-endian words, then 48 steps. -/
def schedule (m : Vector Byte 64) : List Word := scheduleStep^[48] (wordsOf (k := 16) m).toList

/-- The eight working variables (R114). -/
structure Working where
  a : Word
  b : Word
  c : Word
  d : Word
  e : Word
  f : Word
  g : Word
  h : Word
  deriving DecidableEq, Repr

/-- Round t of the compression (R114), for the round constant and schedule word of that round. -/
def shaRound (x : Working) (kt wt : Word) : Working :=
  let t1 := x.h + bigSigma1 x.e + shaCh x.e x.f x.g + kt + wt
  let t2 := bigSigma0 x.a + shaMaj x.a x.b x.c
  ⟨t1 + t2, x.a, x.b, x.c, x.d + t1, x.e, x.f, x.g⟩

/-- The 64 rounds of the compression (R114), t ascending. -/
def shaRounds (w : List Word) (x : Working) : Working :=
  (List.range 64).foldl (fun y t => shaRound y (sha256K.getD t 0#32) (w.getD t 0#32)) x

/-- `Compress(H, M)` (R114). -/
def compress (hv : Vector Word 8) (m : Vector Byte 64) : Vector Word 8 :=
  let x := shaRounds (schedule m) ⟨hv[0], hv[1], hv[2], hv[3], hv[4], hv[5], hv[6], hv[7]⟩
  #v[hv[0] + x.a, hv[1] + x.b, hv[2] + x.c, hv[3] + x.d,
     hv[4] + x.e, hv[5] + x.f, hv[6] + x.g, hv[7] + x.h]

/-- A byte sequence split into 64-byte blocks, in order (R115). -/
def blocks64 (p : List Byte) : List (Vector Byte 64) :=
  (List.range (p.length / 64)).map fun j => bytesOfList 64 (p.drop (64 * j))

/-- The number of zero bytes (R115): (55 − n) mod 64, that is 55 − n for n ≤ 55 and 119 − n for 56 ≤ n ≤ 63. -/
def zeroFill (n : Nat) : Nat := (119 - n) % 64

/-- `PadFinal(T, L)` (R115): the last one or two blocks of a message that ends with the bytes T and has L bits. -/
def padFinal (t : List Byte) (l : BitVec 64) : List (Vector Byte 64) :=
  blocks64 (t ++ [0x80#8] ++ List.replicate (zeroFill t.length) 0x00#8 ++ be64Bytes l)

/-- MSG as the 64-byte block M = BYTES(MSG) (R43). -/
def msgBytes (d : Device) : Vector Byte 64 := bytesOf d.msg

/-- SHA_INIT (R116). -/
def execShaInit (s : State) : Host.Outcome State Fault Refusal :=
  finish .ok { s.dev with hash := sha256Init, shalen := 0#64, shaact := true } s

/-- SHA_BLOCK (R117). -/
def execShaBlock (s : State) : Host.Outcome State Fault Refusal :=
  if s.dev.shaact = false then raise .seq s
  else
    finish .ok { s.dev with hash := compress s.dev.hash (msgBytes s.dev)
                            shalen := s.dev.shalen + 512#64 } s

/-- SHA_FINAL n (R118). -/
def execShaFinal (n : Nat) (s : State) : Host.Outcome State Fault Refusal :=
  if s.dev.shaact = false then raise .seq s
  else
    let l := s.dev.shalen + BitVec.ofNat 64 (8 * n)
    finish .ok { s.dev with hash := (padFinal ((msgBytes s.dev).toList.take n) l).foldl compress s.dev.hash
                            shalen := l
                            shaact := false } s

end Sys2Proof.Machine
end

