-- ==== Sys2Proof/Machine/Dispatch.lean ====
section
/-! DEFINITION. The dispatch of the completion step (R223): one meaning for each command. -/

namespace Sys2Proof.Machine

def exec (i : Instr) (s : State) : Host.Outcome State Fault Refusal :=
  match i with
  | .nop => Sys2Proof.Machine.execNop s
  | .clear => Sys2Proof.Machine.execClear s
  | .shaInit => Sys2Proof.Machine.execShaInit s
  | .shaBlock => Sys2Proof.Machine.execShaBlock s
  | .shaFinal n => Sys2Proof.Machine.execShaFinal n s
  | .keyExpand src => Sys2Proof.Machine.execKeyExpand src s
  | .aesEnc => Sys2Proof.Machine.execAesEnc s
  | .aesDec => Sys2Proof.Machine.execAesDec s
  | .pad n => Sys2Proof.Machine.execPad n s
  | .unpad => Sys2Proof.Machine.execUnpad s
  | .cbcEncStart src => Sys2Proof.Machine.execCbcEncStart src s
  | .cbcEncBlock => Sys2Proof.Machine.execCbcEncBlock s
  | .cbcDecStart => Sys2Proof.Machine.execCbcDecStart s
  | .cbcDecBlock => Sys2Proof.Machine.execCbcDecBlock s
  | .cbcAbort => Sys2Proof.Machine.execCbcAbort s

end Sys2Proof.Machine
end

