-- ==== Sys2Proof/Machine/Bus.lean ====
section
/-! DEFINITION. The register window: the map (R21, R61-R63), reading and writing one register (R69-R72), and the two
bus transactions (R70, R71). -/

namespace Sys2Proof.Machine

/-- The registers of the map (R21), each group indexed. -/
inductive Reg where
  | ctrl
  | status
  | cmd
  | len
  | cnt
  | blkrem
  | tail
  | key (k : Fin 8)
  | din (k : Fin 4)
  | dout (k : Fin 4)
  | iv (k : Fin 4)
  | chain (k : Fin 4)
  | msg (k : Fin 16)
  | hash (k : Fin 8)
  | shalenLo
  | shalenHi
  | rk (k : Fin 60)
  deriving DecidableEq, Repr

/-- The offset of register k of a group that begins at `base` (R21: base + 4k). -/
def groupOffset (base k : Nat) : Offset := BitVec.ofNat 12 (base + 4 * k)

/-- The register map (R21). -/
def Reg.offset : Reg → Offset
  | .ctrl => 0x000#12
  | .status => 0x004#12
  | .cmd => 0x008#12
  | .len => 0x00C#12
  | .cnt => 0x010#12
  | .blkrem => 0x014#12
  | .tail => 0x018#12
  | .key k => groupOffset 0x020 k
  | .din k => groupOffset 0x040 k
  | .dout k => groupOffset 0x050 k
  | .iv k => groupOffset 0x060 k
  | .chain k => groupOffset 0x070 k
  | .msg k => groupOffset 0x080 k
  | .hash k => groupOffset 0x0C0 k
  | .shalenLo => 0x0E0#12
  | .shalenHi => 0x0E4#12
  | .rk k => groupOffset 0x100 k

/-- Every register of the map. -/
def allRegs : List Reg :=
  List.flatten
    [ [Reg.ctrl, Reg.status, Reg.cmd, Reg.len, Reg.cnt, Reg.blkrem, Reg.tail],
      (List.finRange 8).map Reg.key, (List.finRange 4).map Reg.din, (List.finRange 4).map Reg.dout,
      (List.finRange 4).map Reg.iv, (List.finRange 4).map Reg.chain, (List.finRange 16).map Reg.msg,
      (List.finRange 8).map Reg.hash, [Reg.shalenLo, Reg.shalenHi], (List.finRange 60).map Reg.rk ]

/-- R62: an offset is mapped when it is the offset of a register; every other offset is unmapped. -/
def regAt (off : Offset) : Option Reg := allRegs.find? fun r => r.offset == off

/-- R61: the offset in the window of an address of the host's map; an address outside the window does not reach
CV-CORE. -/
def windowOffset (addr : Nat) : Option Offset :=
  if Config.base ≤ addr ∧ addr < Config.base + 4096 then some (BitVec.ofNat 12 (addr - Config.base)) else none

/-- The result registers (R70): DOUT, CHAIN, IV, HASH, SHALEN, RK, CNT, BLKREM and TAIL. -/
def Reg.isResult : Reg → Bool
  | .ctrl | .status | .cmd | .len | .key _ | .din _ | .msg _ => false
  | .dout _ | .chain _ | .iv _ | .hash _ | .shalenLo | .shalenHi | .rk _ | .cnt | .blkrem | .tail => true

/-- `readval` (R70): the register with its unimplemented bits 0 (R69); CMD reads 0 (R72). -/
def readval (d : Device) : Reg → Word
  | .ctrl => ctrlWord d
  | .status => statusWord d
  | .cmd => 0#32
  | .len => d.len
  | .cnt => d.cnt.setWidth 32
  | .blkrem => d.blkrem.setWidth 32
  | .tail => d.tail.setWidth 32
  | .key k => d.key[k]
  | .din k => d.din[k]
  | .dout k => d.dout[k]
  | .iv k => d.iv[k]
  | .chain k => d.chain[k]
  | .msg k => d.msg[k]
  | .hash k => d.hash[k]
  | .shalenLo => d.shalen.extractLsb' 0 32
  | .shalenHi => d.shalen.extractLsb' 32 32
  | .rk k => d.rk[k]

/-- A transaction the port answers with ERROR whatever the offset holds: wrong size or misaligned (R64, R65). -/
def malformed (off : Offset) (size : Nat) : Bool := size != 32 || off.toNat % 4 != 0

/-- `BusRead(off)` (R70): the response, and the state after it (the block is unchanged; a draw may be made). -/
def busRead (off : Offset) (size : Nat) (s : State) : Response × State :=
  if malformed off size then (.error, s)
  else
    match regAt off with
    | none => (.error, s)
    | some r =>
      if s.dev.busy && r.isResult then
        let (v, s') := drawBusyRead off s
        (.data v, s')
      else (.data (readval s.dev r), s)

/-- The register write of `BusWrite` while BUSY = 0 (R71, R72). A write of CMD accepts the command (R33, R220). -/
def writeReg (r : Reg) (v : Word) (s : State) : State :=
  match r with
  | .ctrl => { s with dev := { s.dev with ie := v.getLsbD 0 } }
  | .status => { s with dev := clearFlags v s.dev }
  | .cmd => accept v s
  | .len => { s with dev := { s.dev with len := v } }
  | .key k => { s with dev := { s.dev with key := s.dev.key.set k v } }
  | .din k => { s with dev := { s.dev with din := s.dev.din.set k v } }
  | .iv k => { s with dev := { s.dev with iv := s.dev.iv.set k v } }
  | .msg k => { s with dev := { s.dev with msg := s.dev.msg.set k v } }
  | .cnt | .blkrem | .tail | .dout _ | .chain _ | .hash _ | .shalenLo | .shalenHi | .rk _ => s

/-- A write that arrives while BUSY = 1 is discarded and sets WOB (R71, R274). -/
def discardWrite (s : State) : State := { s with dev := { s.dev with wob := true } }

/-- `BusWrite(off, v)` (R71): the response and the state after it. -/
def busWrite (off : Offset) (size : Nat) (v : Word) (s : State) : Response × State :=
  if malformed off size then (.error, s)
  else
    match regAt off with
    | none => (.error, s)
    | some r => if s.dev.busy then (.okay, discardWrite s) else (.okay, writeReg r v s)

end Sys2Proof.Machine
end

