-- ==== Sys2Proof/Machine/Schedule.lean ====
section
/-! DEFINITION. Which event comes next (R221), and the host's turn: one action of the script, performed on the block
(R53, R55, R97, R98). -/

namespace Sys2Proof.Machine

/-- The kinds of step of R221, and the block left alone when there is nothing to do (R262). -/
inductive Turn where
  /-- The completion step. -/
  | completion
  /-- A host transaction or a reset, the first action of the script. -/
  | host (a : Action) (rest : List Action)
  /-- No command is pending and the host does nothing. -/
  | idle
  deriving DecidableEq, Repr

/-- A reset that coincides with the completion (R253). -/
def Action.takesCompletion : Action → Bool
  | .reset .completion => true
  | .reset .nothing | .reset (.read _ _) | .reset (.write _ _ _) => false
  | .read _ _ | .write _ _ _ | .check _ _ _ | .poll => false

/-- Whose turn it is (R221): a pending command completes once its latency is spent, and at the latest when the host
has nothing more to do (R284); otherwise the host's next action happens (log entry 2). A reset that coincides with the
completion wins over it (R253). -/
def nextTurn (s : State) : Turn :=
  match s.script with
  | [] => if s.dev.busy then .completion else .idle
  | a :: rest => if s.dev.busy && s.lat == 0 && !a.takesCompletion then .completion else .host a rest

/-- The data of a response, 0 where there is none. -/
def Response.value : Response → Word
  | .data v => v
  | .okay => 0#32
  | .error => 0#32

/-- Whether a response is OKAY with data that agrees with `want` under `mask` (R97, R98). -/
def Response.agrees (mask want : Word) : Response → Bool
  | .data v => v &&& mask == want
  | .okay => false
  | .error => false

/-- One action of the host or the platform on the block. A reset wins over the transaction it coincides with, which has
no effect on the block (R253). -/
def performAction (a : Action) (s : State) : State :=
  match a with
  | .read off size =>
    let (r, s') := busRead off size s
    respond r s'
  | .write off size v =>
    let (r, s') := busWrite off size v s
    respond r s'
  | .check off mask want =>
    let (r, s') := busRead off 32 s
    respond r { s' with failed := if r.agrees mask want then s'.failed else s'.failed + 1 }
  | .poll =>
    let (r, s') := busRead Reg.status.offset 32 s
    respond r { s' with script := if r.value.getLsbD 0 then .poll :: s'.script else s'.script }
  | .reset c => resetDevice (cutOff c s)

/-- The host's turn: the action leaves the script, uses up one unit of the pending command's latency, and happens. -/
def hostTurn (a : Action) (rest : List Action) (s : State) : State :=
  performAction a { s with script := rest, lat := s.lat - 1 }

end Sys2Proof.Machine
end

