-- ==== Sys2Proof/Machine/Step.lean ====
section
/-! DEFINITION. One step of the machine (R221, R223), and the state in which a given command word is the next to
complete. -/

namespace Sys2Proof.Machine

/-- `execute(v)` (R223): decode, then the command's meaning; an illegal word completes with ILLCMD (R242). -/
def execute (v : Word) (s : State) : Host.Outcome State Fault Refusal :=
  match decode v with
  | .ok i => exec i s
  | .error _ => illegalCommand s

/-- The completion step (R221). -/
def completion (s : State) : Host.Outcome State Fault Refusal :=
  match s.dev.pending with
  | some v => execute v s
  | none => .fault .noPendingCommand

/-- One step (R221): the completion of the pending command, or one action of the host, or nothing. -/
def step (s : State) : Host.Outcome State Fault Refusal :=
  match nextTurn s with
  | .completion => completion s
  | .host a rest => .next (hostTurn a rest s)
  | .idle => .next s

/-- s with the command word w accepted (R220) and its latency spent, so that the next step completes exactly it. The
block fetches nothing (R23); `pending` is where it takes its command from (R48, R221). Resets that come with that very
completion (R253) are dropped from the front of the script, since they would win over it. -/
def State.withFetchWord (s : State) (nbits w : Nat) : State :=
  { s with dev := s.dev.accept (BitVec.ofNat 32 (w % 2 ^ nbits))
           lat := 0
           script := s.script.dropWhile Action.takesCompletion }

end Sys2Proof.Machine
end

