-- ==== Sys2Proof/Machine/Protocol.lean ====
section
/-! DEFINITION. The host protocols of R119, R208 and R209 as sequences of commands on the block, and the source's
functions they are said to compute: SHA-256 of a message (R119), CBC `encrypt` and `decrypt` (44_cbc.md, R210), `pad`
and `unpad` (R191, R192). -/

namespace Sys2Proof.Machine

/-- Goes on with `f` after a next state, and stops where `o` stopped. -/
def andThen {α β : Type} (o : Host.Outcome α Fault Refusal) (f : α → Host.Outcome β Fault Refusal) :
    Host.Outcome β Fault Refusal :=
  match o with
  | .next a => f a
  | .fault r => .fault r
  | .refused r => .refused r

/-- `load MSG, b`: MSG holds the 64 bytes b. -/
def withMsg (b : Vector Byte 64) (s : State) : State := { s with dev := { s.dev with msg := wordsOf (k := 16) b } }

/-- `load DIN, b`. -/
def withDin (b : Block) (s : State) : State := { s with dev := { s.dev with din := blockWords b } }

/-- `load IV, b`. -/
def withIv (b : Block) (s : State) : State := { s with dev := { s.dev with iv := blockWords b } }

/-- `write LEN, n`. LEN has 32 bits and the spec gives no longer message (R12); for n of 2^32 or more this writes n
modulo 2^32, which is the model's choice (log entry 18). -/
def withLen (n : Nat) (s : State) : State := { s with dev := { s.dev with len := BitVec.ofNat 32 n } }

/-! ## Hashing a message (R119) -/

/-- The loop of R119: load each full block and issue SHA_BLOCK. -/
def absorbBlocks (bs : List (Vector Byte 64)) (s : State) : Host.Outcome State Fault Refusal :=
  match bs with
  | [] => .next s
  | b :: rest => andThen (exec .shaBlock (withMsg b s)) (absorbBlocks rest)

/-- The host sequence of R119 for the message m: SHA_INIT, SHA_BLOCK for each full block, SHA_FINAL of the tail. For 2^64
bits or more R120 says that the block keeps going, with the length modulo 2^64. -/
def hashMessage (m : List Byte) (s : State) : Host.Outcome State Fault Refusal :=
  andThen (exec .shaInit s) fun s1 =>
    andThen (absorbBlocks (blocks64 m) s1) fun s2 =>
      exec (.shaFinal (m.length % 64)) (withMsg (bytesOfList 64 (m.drop (64 * (m.length / 64)))) s2)

/-- The padded message of SHA-256 (40_sha256.md, the source's §4.1): 0x80, zeros to 56 mod 64, the 64-bit length. A
length of 2^64 bits or more is taken modulo 2^64, as R120 says; the result is then no FIPS-180-4 digest. -/
def shaPadded (m : List Byte) : List Byte :=
  m ++ [0x80#8] ++ List.replicate ((119 - m.length % 64) % 64) 0x00#8 ++ be64Bytes (BitVec.ofNat 64 (8 * m.length))

/-- SHA-256 of a whole message: the compression function over the blocks of the padded message, from H(0). -/
def sha256 (m : List Byte) : Vector Word 8 := (blocks64 (shaPadded m)).foldl compress sha256Init

/-! ## Blocks and padding of a CBC message -/

/-- A byte sequence split into 16-byte blocks, in order. -/
def blocks16 (p : List Byte) : List Block :=
  (List.range (p.length / 16)).map fun j => bytesOfList 16 (p.drop (16 * j))

/-- The bytes of a sequence of blocks. -/
def blocksBytes (bs : List Block) : List Byte := bs.flatMap fun b => b.toList

/-- The source's `pad(data)` (R191). -/
def padMessage (p : List Byte) : List Byte :=
  p ++ List.replicate (16 - p.length % 16) (BitVec.ofNat 8 (16 - p.length % 16))

/-- The source's `unpad(data)` (43_pkcs7.md, R192): none is `InvalidPadding`. -/
def unpadMessage (p : List Byte) : Option (List Byte) :=
  let n := (p.getLastD 0#8).toNat
  if p.length ≠ 0 ∧ p.length % 16 = 0 ∧ 1 ≤ n ∧ n ≤ 16 ∧ (p.drop (p.length - n)).all (fun b => b.toNat == n) then
    some (p.take (p.length - n))
  else none

/-! ## Encryption -/

/-- The loop of the source's `encrypt`: XOR with `prev`, encrypt, and the new block becomes `prev`. -/
def cbcChain (rk : Vector Word 60) (prev : Block) : List Block → List Block
  | [] => []
  | b :: rest =>
    let c := cipher (xorBlock b prev) rk
    c :: cbcChain rk c rest

/-- The source's `encrypt` with its random draw equal to iv (R210a): IV ‖ C₁ ‖ … ‖ Cₙ, as blocks. -/
def sourceEncrypt (rk : Vector Word 60) (iv : Block) (p : List Byte) : List Block :=
  iv :: cbcChain rk iv (blocks16 (padMessage p))

/-- The windows of R208: P[16(j−1) .. min(16j, |P|)) for j = 1..N, the last one filled up with any filler. -/
def windows (p filler : List Byte) : List Block :=
  (List.range (p.length / 16 + 1)).map fun j => bytesOfList 16 ((p ++ filler).drop (16 * j))

/-- The loop of R208: load each window, issue CBC_ENC_BLOCK and read DOUT. -/
def encryptBlocks (ws : List Block) (s : State) : Host.Outcome (List Block × State) Fault Refusal :=
  match ws with
  | [] => .next ([], s)
  | w :: rest =>
    andThen (exec .cbcEncBlock (withDin w s)) fun s1 =>
      andThen (encryptBlocks rest s1) fun r => .next (bytesOf s1.dev.dout :: r.1, r.2)

/-- The host protocol of R208 for the plaintext p: the output blocks IV ‖ C₁ ‖ … ‖ C_N, and none when CBC_ENC_START
completes with an error. Outside the rule's conditions (KEYVALID = 1, MODE = IDLE, |p| < 2^32) the same statements run:
LEN is |p| modulo 2^32, all |p|/16 + 1 windows are issued, and an error of CBC_ENC_START other than RNGFAIL gives none
too, which is the model's choice (log entry 18). -/
def encryptMessage (src : IvSource) (p filler : List Byte) (s : State) :
    Host.Outcome (Option (List Block) × State) Fault Refusal :=
  andThen (exec (.cbcEncStart src) (withLen p.length s)) fun s1 =>
    if s1.dev.err ≠ .ok then .next (none, s1)
    else
      andThen (encryptBlocks (windows p filler) s1) fun r => .next (some (bytesOf s1.dev.iv :: r.1), r.2)

/-! ## Decryption -/

/-- The loop of the source's `decrypt`: decrypt, XOR with `prev`, and the ciphertext block becomes `prev`. -/
def cbcUnchain (rk : Vector Word 60) (prev : Block) : List Block → List Block
  | [] => []
  | c :: rest => xorBlock (invCipher c rk) prev :: cbcUnchain rk c rest

/-- The source's `decrypt` (44_cbc.md, R210b): `badlen` is InvalidCiphertextLength, `badpad` InvalidPadding. -/
def sourceDecrypt (rk : Vector Word 60) (c : List Byte) : Except ErrCode (List Byte) :=
  if ¬(32 ≤ c.length ∧ (c.length - 16) % 16 = 0) then .error .badlen
  else
    match unpadMessage (blocksBytes (cbcUnchain rk (bytesOfList 16 c) (blocks16 (c.drop 16)))) with
    | some p => .ok p
    | none => .error .badpad

/-- The loop of R209: load each ciphertext block, issue CBC_DEC_BLOCK and read DOUT. -/
def decryptBlocks (cs : List Block) (s : State) : Host.Outcome (List Block × State) Fault Refusal :=
  match cs with
  | [] => .next ([], s)
  | c :: rest =>
    andThen (exec .cbcDecBlock (withDin c s)) fun s1 =>
      andThen (decryptBlocks rest s1) fun r => .next (bytesOf s1.dev.dout :: r.1, r.2)

/-- The host protocol of R209 for the ciphertext c: the plaintext, or the error the START or the last block
completes with. Outside the rule's conditions (KEYVALID = 1, MODE = IDLE, |c| < 2^32) the same statements run: LEN is |c|
modulo 2^32, all the whole blocks after the first are issued, and an error other than BADLEN and BADPAD is the answer
too, which is the model's choice (log entry 18). -/
def decryptMessage (c : List Byte) (s : State) :
    Host.Outcome (Except ErrCode (List Byte) × State) Fault Refusal :=
  andThen (exec .cbcDecStart (withIv (bytesOfList 16 c) (withLen c.length s))) fun s1 =>
    if s1.dev.err ≠ .ok then .next (.error s1.dev.err, s1)
    else
      andThen (decryptBlocks (blocks16 (c.drop 16)) s1) fun r =>
        if r.2.dev.err ≠ .ok then .next (.error r.2.dev.err, r.2)
        else .next (.ok ((blocksBytes r.1).take (16 * ((c.length - 16) / 16 - 1) + r.2.dev.cnt.toNat)), r.2)

end Sys2Proof.Machine
end

