-- ==== Sys2Proof/Machine/Script.lean ====
section
/-! DEFINITION. The host-script statements and pseudo-instructions (R97, R98), each as the bus actions it stands for. -/

namespace Sys2Proof.Machine

/-- The register groups a statement can name (R98). -/
inductive Group where
  | key
  | din
  | dout
  | iv
  | chain
  | msg
  | hash
  | rk
  deriving DecidableEq, Repr

/-- The offset of a group's first register (R21). -/
def Group.base : Group → Nat
  | .key => 0x020
  | .din => 0x040
  | .dout => 0x050
  | .iv => 0x060
  | .chain => 0x070
  | .msg => 0x080
  | .hash => 0x0C0
  | .rk => 0x100

/-- How many registers a group has (R21). -/
def Group.size : Group → Nat
  | .key => 8
  | .din => 4
  | .dout => 4
  | .iv => 4
  | .chain => 4
  | .msg => 16
  | .hash => 8
  | .rk => 60

/-- A statement of a host script (R97) or a pseudo-instruction (R98). -/
inductive Stmt where
  /-- `write off, v`. -/
  | write (off : Offset) (v : Word)
  /-- `read off`. -/
  | read (off : Offset)
  /-- `read off -> v`: the program asserts the value. -/
  | readIs (off : Offset) (v : Word)
  /-- `<MNEMONIC> [<operand>]`: write CMD, encode(...). A well-formed command is not asked for (log entry 12). -/
  | issue (i : Instr)
  /-- `wait`. -/
  | wait
  /-- `cmd <MNEMONIC> [<operand>]`: issue, then wait. -/
  | cmd (i : Instr)
  /-- `load <GROUP>, <bytes>`; the groups are KEY, DIN, IV and MSG. -/
  | load (g : Group) (bs : List Byte)
  /-- `expect <GROUP>, <bytes>`. -/
  | expect (g : Group) (bs : List Byte)
  /-- `check_ok`: ERR = 0 and BUSY = 0. -/
  | checkOk
  /-- `check_err code`. -/
  | checkErr (code : ErrCode)
  deriving DecidableEq, Repr

/-- Word j of a byte list, big-endian, with missing bytes 0x00 (R98 `load`). -/
def listWord (bs : List Byte) (j : Nat) : Word :=
  be32 (bs.getD (4 * j) 0#8) (bs.getD (4 * j + 1) 0#8) (bs.getD (4 * j + 2) 0#8) (bs.getD (4 * j + 3) 0#8)

/-- The write of CMD that issues a command (R97). The grammar gives SHA_FINAL n up to 63 and PAD n up to 15; for a
larger count this writes whatever word `encode` gives, illegal or another command's, which is the model's choice (log
entry 12). -/
def issueAction (i : Instr) : Action := .write Reg.cmd.offset 32 (encode i)

/-- The bus actions of a statement (R97, R98). The rule gives `load` and `expect` at most 4k bytes for a group of k
registers. Given more, `load` drops the bytes past the group's last register, and `expect` goes on asserting at the
offsets that follow the group; given a part of a word, `expect` leaves that part out. All three are the model's choice
(log entry 14). -/
def Stmt.actions : Stmt → List Action
  | .write off v => [.write off 32 v]
  | .read off => [.read off 32]
  | .readIs off v => [.check off 0xFFFFFFFF#32 v]
  | .issue i => [issueAction i]
  | .wait => [.poll]
  | .cmd i => [issueAction i, .poll]
  | .load g bs => (List.range g.size).map fun j => .write (groupOffset g.base j) 32 (listWord bs j)
  | .expect g bs =>
      (List.range (bs.length / 4)).map fun j => .check (groupOffset g.base j) 0xFFFFFFFF#32 (listWord bs j)
  | .checkOk => [.check Reg.status.offset 0x00000F01#32 0#32]
  | .checkErr code => [.check Reg.status.offset 0x00000F00#32 (code.code.setWidth 32 <<< 8)]

/-- s with a host script added after what the host already has to do. -/
def State.withScript (s : State) (p : List Stmt) : State := { s with script := s.script ++ p.flatMap Stmt.actions }

end Sys2Proof.Machine
end

