-- ==== Sys2Proof/Safety.lean ====
section
/-! DEFINITION. What counts as a good state and a safe run: the invariants of R49, with R46 and R251, and the states
a run reaches. -/

namespace Sys2Proof

open Sys2Proof.Machine

/-- R49(a): an open session has a key schedule and between 1 and 2^28 blocks left. -/
abbrev SessionCounts (d : Device) : Prop :=
  d.mode ≠ .idle → d.keyvalid = true ∧ 1 ≤ d.blkrem.toNat ∧ d.blkrem.toNat ≤ 2 ^ 28

/-- R49(b): with no session, BLKREM and TAIL are 0. -/
abbrev IdleCounts (d : Device) : Prop := d.mode = .idle → d.blkrem = 0#29 ∧ d.tail = 0#4

/-- R49(c): a decryption session has TAIL = 0. -/
abbrev DecryptionTail (d : Device) : Prop := d.mode = .dec → d.tail = 0#4

/-- R49(d): BUSY = 1 exactly when a command is pending. -/
abbrev BusyIffPending (d : Device) : Prop := d.busy = d.pending.isSome

/-- R49(e) and R46: with KEYVALID = 1, RK is the expansion of some key; with KEYVALID = 0, RK is 0. -/
def ScheduleExpanded (d : Device) : Prop :=
  (d.keyvalid = true → ∃ k : Vector Byte 32, d.rk = keyExpansion k) ∧
  (d.keyvalid = false → d.rk = Vector.replicate 60 0#32)

/-- R251: DONE = 0 from acceptance to completion. -/
abbrev BusyNotDone (d : Device) : Prop := d.busy = true → d.done = false

/-- The invariants of the block (R49, R46, R251). R49(f) is in the types of MODE and ERR. -/
def DeviceInv (d : Device) : Prop :=
  SessionCounts d ∧ IdleCounts d ∧ DecryptionTail d ∧ BusyIffPending d ∧ ScheduleExpanded d ∧ BusyNotDone d

/-- The invariant of a state: that of its block. -/
def Inv (s : State) : Prop := DeviceInv s.dev

/-- A state a run can begin in: the block is reset, whatever the host has to do and whatever has been drawn. -/
def Initial (s : State) : Prop := s.dev = Device.reset

/-- The states a run reaches. -/
inductive Reachable : State → Prop where
  | start {s : State} : Initial s → Reachable s
  | next {s t : State} : Reachable s → step s = .next t → Reachable t

/-- The key of the last successful KEY_EXPAND after a step from s, where it was k before (R49e, R145): the 32 bytes
of KEY or HASH that a completing KEY_EXPAND reads with MODE = IDLE. -/
def keyAfter (s : State) (k : Option (Vector Byte 32)) : Option (Vector Byte 32) :=
  match nextTurn s, s.dev.pending with
  | .completion, some v =>
    match decode v with
    | .ok (.keyExpand .key) => if s.dev.mode = .idle then some (bytesOf s.dev.key) else k
    | .ok (.keyExpand .hash) => if s.dev.mode = .idle then some (bytesOf s.dev.hash) else k
    | .ok _ => k
    | .error _ => k
  | _, _ => k

/-- The states a run reaches, with the key that the last successful KEY_EXPAND of the run read. -/
inductive ReachableWithKey : Option (Vector Byte 32) → State → Prop where
  | start {s : State} : Initial s → ReachableWithKey none s
  | next {k : Option (Vector Byte 32)} {s t : State} :
      ReachableWithKey k s → step s = .next t → ReachableWithKey (keyAfter s k) t

/-- A safe step: it answers a next state. -/
def SafeStep (s : State) : Prop := ∃ t, step s = .next t

end Sys2Proof
end

