-- ==== Sys2Proof/Certificates/Slice0/Obligations.lean ====
section
/-! DEFINITION. The statements about the model, and the few words they are written in. Nothing here is part of the
machine; each word below is a rule's own table, written without the meanings it is held against. -/

namespace Sys2Proof.Statements

open Sys2Proof.Machine

/-- The block after `complete(code)` (R222): the block d with the four writes of that rule, spelled out. -/
def ended (code : ErrCode) (d : Device) : Device :=
  { d with err := code, busy := false, done := true, pending := none }

/-- The command completes with `code`, its writes leave the block d, and nothing outside the block changes. -/
def CompletesWith (i : Instr) (s : State) (code : ErrCode) (d : Device) : Prop :=
  exec i s = .next { s with dev := ended code d }

/-- Four registers holding a block, register k being bytes 4k to 4k + 3, the first most significant (R15). -/
def fourWords (b : Block) : Vector Word 4 :=
  #v[be32 b[0] b[1] b[2] b[3], be32 b[4] b[5] b[6] b[7], be32 b[8] b[9] b[10] b[11], be32 b[12] b[13] b[14] b[15]]

/-- UnpadOK as R192 words it: p = X[15] is in 1..16 and the last p bytes are all p. -/
def PaddingHolds (x : Block) : Prop :=
  1 ≤ x[15].toNat ∧ x[15].toNat ≤ 16 ∧ ∀ i : Fin 16, 16 - x[15].toNat ≤ i.val → x[i].toNat = x[15].toNat

/-- The table of R250: the first check of a command that fails decides the code. -/
def firstFailingCheck (i : Instr) (s : State) : ErrCode :=
  let d := s.dev
  match i with
  | .nop | .clear | .shaInit | .pad _ | .cbcAbort => .ok
  | .shaBlock | .shaFinal _ => if d.shaact then .ok else .seq
  | .keyExpand _ => if d.mode = .idle then .ok else .seq
  | .aesEnc | .aesDec => if d.keyvalid then .ok else .nokey
  | .unpad => if unpadOK (bytesOf d.din) then .ok else .badpad
  | .cbcEncStart .iv => if d.mode ≠ .idle then .seq else if d.keyvalid then .ok else .nokey
  | .cbcEncStart .rng =>
      if d.mode ≠ .idle then .seq else if !d.keyvalid then .nokey
      else if Config.entropy s.draws.entropy = none then .rngfail else .ok
  | .cbcEncBlock => if d.mode = .enc then .ok else .seq
  | .cbcDecStart =>
      if d.mode ≠ .idle then .seq else if !d.keyvalid then .nokey
      else if d.len.toNat < 32 ∨ d.len.toNat % 16 ≠ 0 then .badlen else .ok
  | .cbcDecBlock =>
      if d.mode ≠ .dec then .seq
      else if d.blkrem.toNat = 1 ∧
          unpadOK (xorBlock (invCipher (bytesOf d.din) d.rk) (bytesOf d.chain)) = false then .badpad
      else .ok

/-- The registers a command may write (R50); `last` says that the BLOCK command ends its session. STATUS is left out:
its fields have clauses of their own. -/
def mayWrite (last : Bool) : Instr → Reg → Bool
  | .nop, _ => false
  | .clear, .ctrl | .clear, .cmd => false
  | .clear, _ => true
  | .shaInit, .hash _ | .shaInit, .shalenLo | .shaInit, .shalenHi => true
  | .shaBlock, .hash _ | .shaBlock, .shalenLo | .shaBlock, .shalenHi => true
  | .shaFinal _, .hash _ | .shaFinal _, .shalenLo | .shaFinal _, .shalenHi => true
  | .keyExpand _, .rk _ => true
  | .aesEnc, .dout _ | .aesDec, .dout _ | .pad _, .dout _ => true
  | .unpad, .dout _ | .unpad, .cnt => true
  | .cbcEncStart .rng, .iv _ => true
  | .cbcEncStart _, .chain _ | .cbcEncStart _, .blkrem | .cbcEncStart _, .tail => true
  | .cbcEncBlock, .dout _ | .cbcEncBlock, .chain _ | .cbcEncBlock, .blkrem => true
  | .cbcEncBlock, .tail => last
  | .cbcDecStart, .chain _ | .cbcDecStart, .blkrem | .cbcDecStart, .tail | .cbcDecStart, .cnt => true
  | .cbcDecBlock, .dout _ | .cbcDecBlock, .chain _ | .cbcDecBlock, .blkrem => true
  | .cbcDecBlock, .cnt => last
  | .cbcAbort, .chain _ | .cbcAbort, .blkrem | .cbcAbort, .tail => true
  | _, _ => false

/-- The commands that may write KEYVALID, SHAACT and MODE (R50). -/
def mayWriteKeyvalid : Instr → Bool
  | .clear | .keyExpand _ => true
  | _ => false

def mayWriteShaact : Instr → Bool
  | .clear | .shaInit | .shaFinal _ => true
  | _ => false

def mayWriteMode (last : Bool) : Instr → Bool
  | .clear | .cbcEncStart _ | .cbcDecStart | .cbcAbort => true
  | .cbcEncBlock | .cbcDecBlock => last
  | _ => false

/-- The table of R200: MODE after a command that completed with `code`. -/
def sessionAfter (i : Instr) (d : Device) (code : ErrCode) : Mode :=
  match i with
  | .cbcEncStart _ => if code = .ok then .enc else d.mode
  | .cbcDecStart => if code = .ok then .dec else d.mode
  | .cbcEncBlock => if d.mode = .enc ∧ d.blkrem.toNat = 1 then .idle else d.mode
  | .cbcDecBlock => if d.mode = .dec ∧ d.blkrem.toNat = 1 then .idle else d.mode
  | .cbcAbort | .clear => .idle
  | _ => d.mode

/-- The commands R207 allows in an open session without touching it. -/
def leavesSession : Instr → Bool
  | .nop | .shaInit | .shaBlock | .shaFinal _ | .aesEnc | .aesDec | .pad _ | .unpad => true
  | _ => false

/-- The mapped offsets as R63 spells them out, with the alignment of R65. -/
def MappedRange (off : Offset) : Prop :=
  off.toNat % 4 = 0 ∧ (off.toNat < 0x01C ∨ (0x020 ≤ off.toNat ∧ off.toNat < 0x0E8) ∨
    (0x100 ≤ off.toNat ∧ off.toNat < 0x1F0))

/-- Where each register stands (R21). -/
def mapOffset : Reg → Nat
  | .ctrl => 0x000
  | .status => 0x004
  | .cmd => 0x008
  | .len => 0x00C
  | .cnt => 0x010
  | .blkrem => 0x014
  | .tail => 0x018
  | .key k => 0x020 + 4 * k.val
  | .din k => 0x040 + 4 * k.val
  | .dout k => 0x050 + 4 * k.val
  | .iv k => 0x060 + 4 * k.val
  | .chain k => 0x070 + 4 * k.val
  | .msg k => 0x080 + 4 * k.val
  | .hash k => 0x0C0 + 4 * k.val
  | .shalenLo => 0x0E0
  | .shalenHi => 0x0E4
  | .rk k => 0x100 + 4 * k.val

/-- The result registers (R70): DOUT, CHAIN, IV, HASH, SHALEN, RK, CNT, BLKREM and TAIL. -/
def resultRegister : Reg → Bool
  | .dout _ | .chain _ | .iv _ | .hash _ | .shalenLo | .shalenHi | .rk _ | .cnt | .blkrem | .tail => true
  | .ctrl | .status | .cmd | .len | .key _ | .din _ | .msg _ => false

/-- The registers that hold what is written to them: LEN, KEY, DIN, IV and MSG (R71). -/
def storesValue : Reg → Bool
  | .len | .key _ | .din _ | .iv _ | .msg _ => true
  | _ => false

/-- The read-only registers (R72). -/
def readOnly : Reg → Bool
  | .cnt | .blkrem | .tail | .dout _ | .chain _ | .hash _ | .shalenLo | .shalenHi | .rk _ => true
  | _ => false

/-- The number that STATUS.MODE holds (R30). -/
def modeNumber : Mode → Nat
  | .idle => 0
  | .enc => 1
  | .dec => 2

/-- The number that STATUS.ERR holds (R32, R241). -/
def errNumber : ErrCode → Nat
  | .ok => 0
  | .rngfail => 1
  | .badlen => 2
  | .badpad => 3
  | .illcmd => 4
  | .seq => 5
  | .nokey => 6

/-- OP, ARG and RSVD of a word as numbers (R90). -/
def opOf (v : Word) : Nat := v.toNat % 256
def argOf (v : Word) : Nat := v.toNat / 256 % 256
def rsvdOf (v : Word) : Nat := v.toNat / 65536

/-- Aff(b) of R161, rotl8 being the left rotation of a byte. -/
def aff (b : Byte) : Byte :=
  b ^^^ b.rotateLeft 1 ^^^ b.rotateLeft 2 ^^^ b.rotateLeft 3 ^^^ b.rotateLeft 4 ^^^ 0x63#8

/-- The first 64 primes, one for each round (R111). -/
def first64Primes : List Nat :=
  [2, 3, 5, 7, 11, 13, 17, 19, 23, 29, 31, 37, 41, 43, 47, 53] ++
  [59, 61, 67, 71, 73, 79, 83, 89, 97, 101, 103, 107, 109, 113, 127, 131] ++
  [137, 139, 149, 151, 157, 163, 167, 173, 179, 181, 191, 193, 197, 199, 211, 223] ++
  [227, 229, 233, 239, 241, 251, 257, 263, 269, 271, 277, 281, 283, 293, 307, 311]

/-- k is the first 32 bits of the fractional part of the cube root of p (R111): q is that root times 2^32, rounded
down. -/
def IsRoundConstant (p : Nat) (k : Word) : Prop :=
  ∃ q : Nat, q ^ 3 ≤ p * 2 ^ 96 ∧ p * 2 ^ 96 < (q + 1) ^ 3 ∧ k.toNat = q % 2 ^ 32

/-- T1 of a round for the working variables x (R114), with Σ1 and Ch of R112 written out. -/
def roundT1 (x : Working) (k w : Word) : Word :=
  x.h + (x.e.rotateRight 6 ^^^ x.e.rotateRight 11 ^^^ x.e.rotateRight 25) +
    ((x.e &&& x.f) ^^^ (~~~x.e &&& x.g)) + k + w

/-- T2 of a round (R114), with Σ0 and Maj of R112 written out. -/
def roundT2 (x : Working) : Word :=
  (x.a.rotateRight 2 ^^^ x.a.rotateRight 13 ^^^ x.a.rotateRight 22) +
    ((x.a &&& x.b) ^^^ (x.a &&& x.c) ^^^ (x.b &&& x.c))

/-- The byte in row r and column c of a block (R164). -/
def cell (b : Block) (r c : Fin 4) : Byte := b[r.val + 4 * c.val]

/-- The byte of round key n for row r and column c: byte r, from the top, of RK[4n + c] (R170). -/
def roundKeyByte (rk : Vector Word 60) (n : Nat) (r c : Fin 4) : Byte :=
  BitVec.ofNat 8 ((rk.toList.getD (4 * n + c.val) 0#32).toNat / 2 ^ (24 - 8 * r.val))

/-- The matrix of MixColumns (R168). -/
def mixMatrix : Fin 4 → Fin 4 → Byte :=
  ![![0x02#8, 0x03#8, 0x01#8, 0x01#8], ![0x01#8, 0x02#8, 0x03#8, 0x01#8],
    ![0x01#8, 0x01#8, 0x02#8, 0x03#8], ![0x03#8, 0x01#8, 0x01#8, 0x02#8]]

/-- The matrix of InvMixColumns (R169). -/
def invMixMatrix : Fin 4 → Fin 4 → Byte :=
  ![![0x0e#8, 0x0b#8, 0x0d#8, 0x09#8], ![0x09#8, 0x0e#8, 0x0b#8, 0x0d#8],
    ![0x0d#8, 0x09#8, 0x0e#8, 0x0b#8], ![0x0b#8, 0x0d#8, 0x09#8, 0x0e#8]]

/-- Row r and column c of a matrix times the AES state x, the product of bytes being • of R160. -/
def mixCell (m : Fin 4 → Fin 4 → Byte) (x : Fin 4 → Fin 4 → Byte) (r c : Fin 4) : Byte :=
  gmul (m r 0) (x 0 c) ^^^ gmul (m r 1) (x 1 c) ^^^ gmul (m r 2) (x 2 c) ^^^ gmul (m r 3) (x 3 c)

/-- Cipher (R171) entry by entry, st n being the AES state after AddRoundKey(n). ShiftRows takes row r from column
c + r mod 4 (R166), SubBytes applies S (R165), MixColumns the matrix (R168), AddRoundKey the round key (R170). -/
def CipherRounds (b : Block) (rk : Vector Word 60) (out : Block) : Prop :=
  ∃ st : Nat → Fin 4 → Fin 4 → Byte,
    (∀ r c, st 0 r c = cell b r c ^^^ roundKeyByte rk 0 r c) ∧
    (∀ n, 1 ≤ n → n ≤ 13 → ∀ r c,
      st n r c = mixCell mixMatrix (fun i j => sbox (st (n - 1) i (j + i))) r c ^^^ roundKeyByte rk n r c) ∧
    ∀ r c, cell out r c = sbox (st 13 r (c + r)) ^^^ roundKeyByte rk 14 r c

/-- InvCipher (R172) entry by entry, st n being the AES state after round n, from 14 down. InvShiftRows takes row r
from column c − r mod 4 (R167), and InvMixColumns comes last in a round (R169). -/
def InvCipherRounds (b : Block) (rk : Vector Word 60) (out : Block) : Prop :=
  ∃ st : Nat → Fin 4 → Fin 4 → Byte,
    (∀ r c, st 14 r c = cell b r c ^^^ roundKeyByte rk 14 r c) ∧
    (∀ n, 1 ≤ n → n ≤ 13 → ∀ r c,
      st n r c = mixCell invMixMatrix (fun i j => invSbox (st (n + 1) i (j - i)) ^^^ roundKeyByte rk n i j) r c) ∧
    ∀ r c, cell out r c = invSbox (st 1 r (c - r)) ^^^ roundKeyByte rk 0 r c

/-- The pending command is the next thing to happen: its latency is spent, or the host has nothing more to do, and no
reset comes with the completion (log entries 2 and 17, R253). -/
def Due (s : State) : Prop :=
  s.dev.busy = true ∧ (s.script = [] ∨ (s.lat = 0 ∧ ∀ rest, s.script ≠ .reset .completion :: rest))

/-- The state a transaction leaves, with its response recorded (log entry 4). -/
def RecordedIn (x : Response × State) : State := { x.2 with log := x.1 :: x.2.log }

/-- R94(a): the unassigned values of OP. -/
def Unassigned (op : Nat) : Prop :=
  (0x02 ≤ op ∧ op ≤ 0x0F) ∨ (0x13 ≤ op ∧ op ≤ 0x1F) ∨ (0x23 ≤ op ∧ op ≤ 0x2F) ∨ (0x32 ≤ op ∧ op ≤ 0x3F) ∨ 0x45 ≤ op

/-- R94(c), R91: an ARG bit that the opcode's layout does not use is 1. -/
def UnusedBitSet (op arg : Nat) : Prop :=
  if op = 0x12 then 64 ≤ arg else if op = 0x20 ∨ op = 0x40 then 2 ≤ arg else if op = 0x30 then 16 ≤ arg else arg ≠ 0

end Sys2Proof.Statements

open Sys2Proof Sys2Proof.Machine Sys2Proof.Statements

/-! ## One step (R221, R223, R242) -/

/-- R221, R223: when a command is pending, its latency is spent and its word decodes to i, the step is i's meaning.
The latency count is the model's (log entry 2). -/
def Obligations.StepRunsTheDecodedCommand : Prop :=
  ∀ (s : State) (v : Word) (i : Instr), Due s → s.dev.pending = some v → decode v = .ok i → step s = exec i s

/-- R221, R242: when the pending word is illegal, the step completes with ILLCMD, and no state but BUSY, DONE and ERR
changes. The latency count is the model's (log entry 2). -/
def Obligations.IllegalWordCompletesWithIllcmd : Prop :=
  ∀ (s : State) (v : Word) (e : IllegalWord), Due s → s.dev.pending = some v → decode v = .error e → step s = .next { s with dev := ended .illcmd s.dev }

/-- R221, R253, R262: while no command is ready to complete, or when a reset comes with the completion, the host's
next action happens; with nothing to do the block does nothing. R70, R71, R97, R98: a read or write is that bus
transaction and its response recorded, an assertion a read that counts one failure unless the data agree under the
mask, and `wait` a read of STATUS that stays first in the script exactly while BUSY = 1. The order, the form of such a
reset, the record and the count are the model's (log entries 2, 4, 14 and 17). -/
def Obligations.HostActsOrBlockRests : Prop :=
  (∀ (s : State) (a : Action) (rest : List Action), s.script = a :: rest →
    (s.dev.busy = false ∨ 0 < s.lat ∨ a = .reset .completion) →
    step s = .next (performAction a { s with script := rest, lat := s.lat - 1 })) ∧
  (∀ s : State, s.script = [] → s.dev.busy = false → step s = .next s) ∧
  ∀ (off : Offset) (size : Nat) (v mask want : Word) (s : State),
    performAction (.read off size) s = RecordedIn (busRead off size s) ∧
    performAction (.write off size v) s = RecordedIn (busWrite off size v s) ∧
    (∃ f, performAction (.check off mask want) s = { RecordedIn (busRead off 32 s) with failed := f } ∧
      ((∃ w, (busRead off 32 s).1 = .data w ∧ w &&& mask = want) → f = s.failed) ∧
      ((¬ ∃ w, (busRead off 32 s).1 = .data w ∧ w &&& mask = want) → f = s.failed + 1)) ∧
    performAction .poll s = { s with
      log := .data (readval s.dev .status) :: s.log
      script := if s.dev.busy then .poll :: s.script else s.script }

/-! ## Control commands (R224, R225) -/

/-- R224. -/
def Obligations.NopOnlyCompletes : Prop :=
  (∀ v : Word, decode v = .ok .nop ↔ v = 0x00000000#32) ∧ ∀ s : State, CompletesWith .nop s .ok s.dev

/-- R225, R272: CLEAR leaves every field at its reset value but IE, WOB (unchanged) and DONE = 1, and the commands that
need a schedule or a SHA message are refused after it. -/
def Obligations.ClearLeavesResetValuesButIeWobDone : Prop :=
  decode 0x00000001#32 = .ok .clear ∧
  ∀ s : State, ∃ t, exec .clear s = .next t ∧
    t = { s with dev := { Device.reset with ie := s.dev.ie, wob := s.dev.wob, done := true } } ∧
    CompletesWith .aesEnc t .nokey t.dev ∧ CompletesWith .aesDec t .nokey t.dev ∧
    (∀ src, CompletesWith (.cbcEncStart src) t .nokey t.dev) ∧ CompletesWith .cbcDecStart t .nokey t.dev ∧
    CompletesWith .shaBlock t .seq t.dev ∧ ∀ n, CompletesWith (.shaFinal n) t .seq t.dev

/-! ## SHA-256 commands (R116-R118) -/

/-- R116, with H(0) of R110. -/
def Obligations.ShaInitStartsAMessage : Prop :=
  decode 0x00000010#32 = .ok .shaInit ∧
  (∀ s : State, CompletesWith .shaInit s .ok
    { s.dev with
      hash := #v[0x6a09e667#32, 0xbb67ae85#32, 0x3c6ef372#32, 0xa54ff53a#32,
                 0x510e527f#32, 0x9b05688c#32, 0x1f83d9ab#32, 0x5be0cd19#32]
      shalen := 0#64, shaact := true }) ∧
  ∀ s t : State, exec .shaInit s = .next t → exec .shaInit t = .next t

/-- R117. -/
def Obligations.ShaBlockAbsorbsOneBlock : Prop :=
  decode 0x00000011#32 = .ok .shaBlock ∧
  (∀ s : State, s.dev.shaact = false → CompletesWith .shaBlock s .seq s.dev) ∧
  ∀ s : State, s.dev.shaact = true → CompletesWith .shaBlock s .ok
    { s.dev with hash := compress s.dev.hash (bytesOf s.dev.msg), shalen := s.dev.shalen + 512#64 }

/-- R118. -/
def Obligations.ShaFinalPadsAndEndsTheMessage : Prop :=
  (∀ n : Nat, n < 64 → decode (BitVec.ofNat 32 (0x12 + 256 * n)) = .ok (.shaFinal n)) ∧
  (∀ (n : Nat) (s : State), s.dev.shaact = false → CompletesWith (.shaFinal n) s .seq s.dev) ∧
  ∀ (n : Nat) (s : State), n < 64 → s.dev.shaact = true → CompletesWith (.shaFinal n) s .ok
    { s.dev with
      hash := (padFinal ((bytesOf s.dev.msg).toList.take n) (s.dev.shalen + BitVec.ofNat 64 (8 * n))).foldl
        compress s.dev.hash
      shalen := s.dev.shalen + BitVec.ofNat 64 (8 * n), shaact := false }

/-! ## AES commands (R145, R173, R174) -/

/-- R145. -/
def Obligations.KeyExpandBuildsTheSchedule : Prop :=
  decode 0x00000020#32 = .ok (.keyExpand .key) ∧ decode 0x00000120#32 = .ok (.keyExpand .hash) ∧
  (∀ (src : KeySource) (s : State), s.dev.mode ≠ .idle → CompletesWith (.keyExpand src) s .seq s.dev) ∧
  (∀ s : State, s.dev.mode = .idle → CompletesWith (.keyExpand .key) s .ok
    { s.dev with rk := keyExpansion (bytesOf s.dev.key), keyvalid := true }) ∧
  ∀ s : State, s.dev.mode = .idle → CompletesWith (.keyExpand .hash) s .ok
    { s.dev with rk := keyExpansion (bytesOf s.dev.hash), keyvalid := true }

/-- R173, and Cipher's rounds (R171), entry by entry. -/
def Obligations.AesEncEncryptsDin : Prop :=
  decode 0x00000021#32 = .ok .aesEnc ∧
  (∀ s : State, s.dev.keyvalid = false → CompletesWith .aesEnc s .nokey s.dev) ∧
  (∀ s : State, s.dev.keyvalid = true → CompletesWith .aesEnc s .ok
    { s.dev with dout := fourWords (cipher (bytesOf s.dev.din) s.dev.rk) }) ∧
  ∀ (b : Block) (rk : Vector Word 60), CipherRounds b rk (cipher b rk)

/-- R174, and InvCipher's rounds (R172), entry by entry. -/
def Obligations.AesDecDecryptsDin : Prop :=
  decode 0x00000022#32 = .ok .aesDec ∧
  (∀ s : State, s.dev.keyvalid = false → CompletesWith .aesDec s .nokey s.dev) ∧
  (∀ s : State, s.dev.keyvalid = true → CompletesWith .aesDec s .ok
    { s.dev with dout := fourWords (invCipher (bytesOf s.dev.din) s.dev.rk) }) ∧
  ∀ (b : Block) (rk : Vector Word 60), InvCipherRounds b rk (invCipher b rk)

/-! ## Padding commands (R193, R194) -/

/-- R193: bytes 0..n−1 of DIN, then 16 − n bytes of value 16 − n; nothing but DOUT changes. -/
def Obligations.PadWritesTheDataThenThePadBytes : Prop :=
  (∀ n : Nat, n < 16 → decode (BitVec.ofNat 32 (0x30 + 256 * n)) = .ok (.pad n)) ∧
  ∀ (n : Nat) (s : State), n < 16 → ∃ x : Block,
    CompletesWith (.pad n) s .ok { s.dev with dout := fourWords x } ∧
    ∀ i : Fin 16, x[i] = if i.val < n then (bytesOf (k := 4) s.dev.din)[i] else BitVec.ofNat 8 (16 - n)

/-- R194. -/
def Obligations.UnpadChecksThePaddingOfDin : Prop :=
  decode 0x00000031#32 = .ok .unpad ∧
  (∀ s : State, PaddingHolds (bytesOf s.dev.din) → ∃ c : BitVec 4,
    c.toNat = 16 - ((bytesOf (k := 4) s.dev.din)[15]).toNat ∧
    CompletesWith .unpad s .ok { s.dev with dout := s.dev.din, cnt := c }) ∧
  ∀ s : State, ¬ PaddingHolds (bytesOf s.dev.din) → CompletesWith .unpad s .badpad
    { s.dev with dout := #v[0#32, 0#32, 0#32, 0#32], cnt := 0#4 }

/-! ## CBC session commands (R201-R206) -/

/-- R201, R202: the checks in order, and what each form leaves. BLKREM and TAIL are exact. The count of entropy
requests is the model's (log entry 3), and the statement holds whatever it is. -/
def Obligations.CbcEncStartOpensASession : Prop :=
  decode 0x00000040#32 = .ok (.cbcEncStart .rng) ∧ decode 0x00000140#32 = .ok (.cbcEncStart .iv) ∧
  (∀ (src : IvSource) (s : State), s.dev.mode ≠ .idle → CompletesWith (.cbcEncStart src) s .seq s.dev) ∧
  (∀ (src : IvSource) (s : State), s.dev.mode = .idle → s.dev.keyvalid = false →
    CompletesWith (.cbcEncStart src) s .nokey s.dev) ∧
  ∀ s : State, s.dev.mode = .idle → s.dev.keyvalid = true →
    ∃ (b : BitVec 29) (c : BitVec 4), b.toNat = s.dev.len.toNat / 16 + 1 ∧ c.toNat = s.dev.len.toNat % 16 ∧
      CompletesWith (.cbcEncStart .iv) s .ok
        { s.dev with chain := s.dev.iv, blkrem := b, tail := c, mode := .enc } ∧
      match Config.entropy s.draws.entropy with
      | none => exec (.cbcEncStart .rng) s = .next
          { s with dev := ended .rngfail s.dev, draws := { s.draws with entropy := s.draws.entropy + 1 } }
      | some iv => exec (.cbcEncStart .rng) s = .next
          { s with
            dev := ended .ok { s.dev with iv := fourWords iv, chain := fourWords iv, blkrem := b, tail := c, mode := .enc }
            draws := { s.draws with entropy := s.draws.entropy + 1 } }

/-- R203: a block that is not the last chains all of DIN; the last one pads its first TAIL bytes and ends the session.
The exclusive or of blocks is bytewise (R14). -/
def Obligations.CbcEncBlockChainsOneWindow : Prop :=
  decode 0x00000041#32 = .ok .cbcEncBlock ∧
  (∀ s : State, s.dev.mode ≠ .enc → CompletesWith .cbcEncBlock s .seq s.dev) ∧
  (∀ s : State, s.dev.mode = .enc → 1 < s.dev.blkrem.toNat →
    ∃ (b : BitVec 29) (c : Vector Word 4), b.toNat = s.dev.blkrem.toNat - 1 ∧
      c = fourWords (cipher (xorBlock (bytesOf s.dev.din) (bytesOf s.dev.chain)) s.dev.rk) ∧
      CompletesWith .cbcEncBlock s .ok { s.dev with dout := c, chain := c, blkrem := b }) ∧
  (∀ (a b : Block) (i : Fin 16), (xorBlock a b)[i] = a[i] ^^^ b[i]) ∧
  ∀ s : State, s.dev.mode = .enc → s.dev.blkrem.toNat = 1 →
    ∃ (p : Block) (c : Vector Word 4),
      (∀ i : Fin 16, p[i] = if i.val < s.dev.tail.toNat then (bytesOf (k := 4) s.dev.din)[i]
        else BitVec.ofNat 8 (16 - s.dev.tail.toNat)) ∧
      c = fourWords (cipher (xorBlock p (bytesOf s.dev.chain)) s.dev.rk) ∧
      CompletesWith .cbcEncBlock s .ok
        { s.dev with dout := c, chain := c, blkrem := 0#29, mode := .idle, tail := 0#4 }

/-- R204: the checks in order, and the session a legal length opens. BLKREM is exact. -/
def Obligations.CbcDecStartChecksTheLength : Prop :=
  decode 0x00000042#32 = .ok .cbcDecStart ∧
  (∀ s : State, s.dev.mode ≠ .idle → CompletesWith .cbcDecStart s .seq s.dev) ∧
  (∀ s : State, s.dev.mode = .idle → s.dev.keyvalid = false → CompletesWith .cbcDecStart s .nokey s.dev) ∧
  (∀ s : State, s.dev.mode = .idle → s.dev.keyvalid = true → (s.dev.len.toNat < 32 ∨ s.dev.len.toNat % 16 ≠ 0) →
    CompletesWith .cbcDecStart s .badlen s.dev) ∧
  ∀ s : State, s.dev.mode = .idle → s.dev.keyvalid = true → 32 ≤ s.dev.len.toNat → s.dev.len.toNat % 16 = 0 →
    ∃ b : BitVec 29, b.toNat = (s.dev.len.toNat - 16) / 16 ∧
      CompletesWith .cbcDecStart s .ok
        { s.dev with chain := s.dev.iv, blkrem := b, tail := 0#4, cnt := 0#4, mode := .dec }

/-- R205: a block that is not the last is released as it is; the last one is unpadded, and ends the session in
either case. -/
def Obligations.CbcDecBlockChainsOneBlock : Prop :=
  decode 0x00000043#32 = .ok .cbcDecBlock ∧
  (∀ s : State, s.dev.mode ≠ .dec → CompletesWith .cbcDecBlock s .seq s.dev) ∧
  ∀ (s : State) (x : Block), s.dev.mode = .dec →
    x = xorBlock (invCipher (bytesOf s.dev.din) s.dev.rk) (bytesOf s.dev.chain) →
    (1 < s.dev.blkrem.toNat → ∃ b : BitVec 29, b.toNat = s.dev.blkrem.toNat - 1 ∧
      CompletesWith .cbcDecBlock s .ok { s.dev with dout := fourWords x, chain := s.dev.din, blkrem := b }) ∧
    (s.dev.blkrem.toNat = 1 → PaddingHolds x → ∃ c : BitVec 4, c.toNat = 16 - x[15].toNat ∧
      CompletesWith .cbcDecBlock s .ok
        { s.dev with dout := fourWords x, chain := s.dev.din, blkrem := 0#29, mode := .idle, cnt := c }) ∧
    (s.dev.blkrem.toNat = 1 → ¬ PaddingHolds x → CompletesWith .cbcDecBlock s .badpad
      { s.dev with dout := #v[0#32, 0#32, 0#32, 0#32], chain := s.dev.din, blkrem := 0#29, mode := .idle, cnt := 0#4 })

/-- R206. -/
def Obligations.CbcAbortEndsTheSession : Prop :=
  decode 0x00000044#32 = .ok .cbcAbort ∧
  ∀ s : State, CompletesWith .cbcAbort s .ok
    { s.dev with mode := .idle, blkrem := 0#29, tail := 0#4, chain := #v[0#32, 0#32, 0#32, 0#32] }

/-! ## Rules about every command -/

/-- R222, R227: every command completes, and completion leaves BUSY = 0, DONE = 1, nothing pending and irq = IE. -/
def Obligations.EveryCommandCompletes : Prop :=
  ∀ (i : Instr) (s : State), ∃ t, exec i s = .next t ∧ t.dev.busy = false ∧ t.dev.done = true ∧
    t.dev.pending = none ∧ irq t.dev = s.dev.ie ∧ t.script = s.script ∧ t.lat = s.lat ∧ t.log = s.log ∧
    t.failed = s.failed ∧ t.draws.lat = s.draws.lat ∧ t.draws.busyRead = s.draws.busyRead ∧ t.draws.cut = s.draws.cut

/-- R250: an illegal word completes with ILLCMD whatever the state is; for every other, the first failing check of the
table decides the code; and the entropy port is asked, once, only after SEQ and NOKEY have passed. The count of
requests is the model's (log entry 3). -/
def Obligations.ErrorCodeIsTheFirstFailingCheck : Prop :=
  (∀ (v : Word) (e : IllegalWord) (s : State), decode v = .error e → ∃ t, execute v s = .next t ∧ t.dev.err = .illcmd) ∧
  ∀ (i : Instr) (s t : State), exec i s = .next t → t.dev.err = firstFailingCheck i s ∧
    t.draws.entropy = s.draws.entropy +
      (if i = .cbcEncStart .rng ∧ s.dev.mode = .idle ∧ s.dev.keyvalid = true then 1 else 0)

/-- R249: every error but BADPAD leaves all state but BUSY, DONE and ERR (and the pending word, R222) as before the
command, and BADPAD makes the writes of R247. -/
def Obligations.FailedCommandLeavesTheBlock : Prop :=
  ∀ (v : Word) (s t : State), execute v s = .next t → t.dev.err ≠ .ok →
    (t.dev.err ≠ .badpad → t.dev = ended t.dev.err s.dev) ∧
    (t.dev.err = .badpad →
      (decode v = .ok .unpad ∧ t.dev = ended .badpad { s.dev with dout := #v[0#32, 0#32, 0#32, 0#32], cnt := 0#4 }) ∨
      (decode v = .ok .cbcDecBlock ∧ t.dev = ended .badpad { s.dev with
        dout := #v[0#32, 0#32, 0#32, 0#32], cnt := 0#4, mode := .idle, blkrem := 0#29, chain := s.dev.din }))

/-- R50: the frame of every command, through the register window. A register or flag the table does not list is as
before; when the command fails with another code than BADPAD, so is every one; IE and WOB never change. -/
def Obligations.CommandsWriteOnlyWhatTheTableLists : Prop :=
  ∀ (i : Instr) (s t : State) (last refused : Bool), exec i s = .next t → last = decide (s.dev.blkrem.toNat = 1) →
    refused = decide (t.dev.err ≠ .ok ∧ t.dev.err ≠ .badpad) →
    (∀ r : Reg, r ≠ .status → (mayWrite last i r = false ∨ refused = true) → readval t.dev r = readval s.dev r) ∧
    (mayWriteKeyvalid i = false ∨ refused = true → t.dev.keyvalid = s.dev.keyvalid) ∧
    (mayWriteShaact i = false ∨ refused = true → t.dev.shaact = s.dev.shaact) ∧
    (mayWriteMode last i = false ∨ refused = true → t.dev.mode = s.dev.mode) ∧
    t.dev.ie = s.dev.ie ∧ t.dev.wob = s.dev.wob

/-- R200: the session's state machine. -/
def Obligations.SessionFollowsItsStateMachine : Prop :=
  ∀ (i : Instr) (s t : State), exec i s = .next t →
    t.dev.mode = sessionAfter i s.dev t.dev.err ∧
    ((i = .cbcDecStart ∨ ∃ src, i = .cbcEncStart src) → t.dev.err = .ok → s.dev.mode = .idle)

/-- R207, R121: a command of another unit, issued in an open session, changes neither the session nor what the next
BLOCK command of the session gives. -/
def Obligations.InterleavedCommandsDoNotDisturbTheSession : Prop :=
  ∀ (j : Instr) (s t : State), leavesSession j = true → exec j s = .next t →
    (t.dev.mode = s.dev.mode ∧ t.dev.blkrem = s.dev.blkrem ∧ t.dev.tail = s.dev.tail ∧ t.dev.chain = s.dev.chain) ∧
    ∀ b : Instr, b = .cbcEncBlock ∨ b = .cbcDecBlock → ∃ u v, exec b s = .next u ∧ exec b t = .next v ∧
      v.dev.err = u.dev.err ∧ v.dev.chain = u.dev.chain ∧ v.dev.mode = u.dev.mode ∧ v.dev.blkrem = u.dev.blkrem ∧
      (u.dev.err ≠ .seq → v.dev.dout = u.dev.dout)

/-- R147, R46: a step changes RK only by completing KEY_EXPAND or CLEAR, or by reset. -/
def Obligations.OnlyKeyExpandClearAndResetChangeRk : Prop :=
  ∀ s t : State, step s = .next t → t.dev.rk ≠ s.dev.rk →
    (nextTurn s = .completion ∧ ∃ v, s.dev.pending = some v ∧
      (decode v = .ok .clear ∨ ∃ src, decode v = .ok (.keyExpand src))) ∨
    ∃ c rest, nextTurn s = .host (.reset c) rest

/-! ## The invariants (R49) -/

/-- R270 and R49: the reset state meets the invariants. -/
def Obligations.ResetMeetsTheInvariants : Prop := Inv State.reset

/-- R49, R46, R251: from a state that meets the invariants a step answers a next state, which meets them. -/
def Obligations.StepKeepsTheInvariants : Prop :=
  ∀ s : State, Inv s → ∃ t, step s = .next t ∧ Inv t

/-- R49: every state a run reaches satisfies (a) to (f), and (e) for the very key that the last successful KEY_EXPAND
of the run read. -/
def Obligations.ReachableStatesMeetTheInvariants : Prop :=
  (∀ s : State, Reachable s → ∃ k, ReachableWithKey k s) ∧
  ∀ (k : Option (Vector Byte 32)) (s : State), ReachableWithKey k s →
    (s.dev.mode ≠ .idle → s.dev.keyvalid = true ∧ 1 ≤ s.dev.blkrem.toNat ∧ s.dev.blkrem.toNat ≤ 2 ^ 28) ∧
    (s.dev.mode = .idle → s.dev.blkrem = 0#29 ∧ s.dev.tail = 0#4) ∧
    (s.dev.mode = .dec → s.dev.tail = 0#4) ∧
    (s.dev.busy = true ↔ ∃ v, s.dev.pending = some v) ∧
    (s.dev.keyvalid = true → ∃ b : Vector Byte 32, k = some b ∧ s.dev.rk = keyExpansion b) ∧
    s.dev.err.code.toNat ≤ 6 ∧ s.dev.mode.code.toNat ≤ 2

/-! ## Encoding (R90-R95) -/

/-- R97: a well-formed command is what its word decodes to, with every operand. -/
def Obligations.DecodeUndoesEncode : Prop :=
  ∀ i : Instr, i.wellFormed = true → decode (encode i) = .ok i

/-- R92, R93: a word that decodes to a command is that command's one word, and the command is well-formed. -/
def Obligations.EncodeUndoesDecode : Prop :=
  ∀ (v : Word) (i : Instr), decode v = .ok i → i.wellFormed = true ∧ encode i = v

/-- R93: at most one row of the map selects a word. -/
def Obligations.AtMostOneRowMatches : Prop :=
  ∀ (v : Word) (j k : Nat) (hj : j < opcodeMap.length) (hk : k < opcodeMap.length),
    opcodeMap[j].selects v = true → opcodeMap[k].selects v = true → j = k

/-- R94, R242: a word is illegal exactly when OP is unassigned, RSVD is not 0, or an unused ARG bit is 1; and it then
completes with ILLCMD and changes no state but BUSY, DONE and ERR (and the pending word, R222). -/
def Obligations.IllegalWordsAreTheThreeCases : Prop :=
  ∀ v : Word, ((∃ e, decode v = .error e) ↔
      (Unassigned (opOf v) ∨ rsvdOf v ≠ 0 ∨ UnusedBitSet (opOf v) (argOf v))) ∧
    ∀ (e : IllegalWord) (s : State), decode v = .error e →
      execute v s = .next { s with dev := ended .illcmd s.dev }

/-- Words written out from R90-R92 and R98, one for each group of the map. Which reason an illegal word gets is the
model's (log entry 9). -/
def Obligations.WrittenOutWordsDecode : Prop :=
  decode 0x00000312#32 = .ok (.shaFinal 3) ∧ decode 0x00003f12#32 = .ok (.shaFinal 63) ∧
  decode 0x00000530#32 = .ok (.pad 5) ∧ decode 0x00000120#32 = .ok (.keyExpand .hash) ∧
  decode 0x00000140#32 = .ok (.cbcEncStart .iv) ∧ decode 0x00000043#32 = .ok .cbcDecBlock ∧
  decode 0x00000000#32 = .ok .nop ∧ decode 0x00000121#32 = .error .unusedArgBits ∧
  decode 0x00010000#32 = .error .reservedBits ∧ decode 0x00000045#32 = .error .unassignedOp

/-! ## The register window (R21, R61-R76) -/

/-- R21, R22, R62, R63: an offset is mapped exactly when it is an aligned offset of the ranges of R63, every register
is reached at the offset the map of R21 gives it, and no two registers share one. -/
def Obligations.EachMappedOffsetNamesOneRegister : Prop :=
  (∀ off : Offset, (∃ r, regAt off = some r) ↔ MappedRange off) ∧
  (∀ r : Reg, regAt r.offset = some r ∧ r.offset.toNat = mapOffset r) ∧ ∀ r q : Reg, r.offset = q.offset → r = q

/-- R62, R64, R65, R76: a transaction of the wrong size, misaligned or at an unmapped offset answers ERROR and changes
no state. -/
def Obligations.BadTransactionsAnswerErrorAndChangeNothing : Prop :=
  ∀ (off : Offset) (size : Nat) (v : Word) (s : State), (size ≠ 32 ∨ ¬ MappedRange off) →
    busRead off size s = (.error, s) ∧ busWrite off size v s = (.error, s)

/-- R70, R74, R75: a 32-bit read of a register gives its value and changes nothing, but for a result register while
BUSY = 1, which gives the next draw of busy_read and changes nothing but the count of draws. The draw as a free value of
that count, the block and the offset is the model's choice (log entry 3). -/
def Obligations.ReadGivesTheRegisterOrADraw : Prop :=
  (∀ (r : Reg) (s : State), (s.dev.busy = false ∨ resultRegister r = false) →
    busRead r.offset 32 s = (.data (readval s.dev r), s)) ∧
  ∀ (r : Reg) (s : State), s.dev.busy = true → resultRegister r = true →
    busRead r.offset 32 s = (.data (Config.busyRead s.draws.busyRead s.dev r.offset),
      { s with draws := { s.draws with busyRead := s.draws.busyRead + 1 } })

/-- R25, R70: the fields of STATUS as a number, with MODE and ERR by their numbers (R30, R32, R241), those of the other
registers with unimplemented bits (R24, R35-R37, R45, R69), and every group of whole registers as its words. -/
def Obligations.RegistersReadAsTheirFields : Prop :=
  (∀ m : Mode, m.code.toNat = modeNumber m) ∧ (∀ e : ErrCode, e.code.toNat = errNumber e) ∧
  ∀ d : Device,
    (readval d .status).toNat = d.busy.toNat + 2 * d.done.toNat + 4 * d.keyvalid.toNat + 8 * d.shaact.toNat +
      16 * modeNumber d.mode + 64 * d.wob.toNat + 256 * errNumber d.err ∧
    (readval d .ctrl).toNat = d.ie.toNat ∧ (readval d .cmd).toNat = 0 ∧
    (readval d .cnt).toNat = d.cnt.toNat ∧ (readval d .blkrem).toNat = d.blkrem.toNat ∧
    (readval d .tail).toNat = d.tail.toNat ∧
    (readval d .shalenHi).toNat * 2 ^ 32 + (readval d .shalenLo).toNat = d.shalen.toNat ∧
    readval d .len = d.len ∧ (∀ k, readval d (.key k) = d.key[k.val]) ∧ (∀ k, readval d (.din k) = d.din[k.val]) ∧
    (∀ k, readval d (.dout k) = d.dout[k.val]) ∧ (∀ k, readval d (.iv k) = d.iv[k.val]) ∧
    (∀ k, readval d (.chain k) = d.chain[k.val]) ∧ (∀ k, readval d (.msg k) = d.msg[k.val]) ∧
    (∀ k, readval d (.hash k) = d.hash[k.val]) ∧ ∀ k, readval d (.rk k) = d.rk[k.val]

/-- R71, R72: while BUSY = 0, a write to LEN, KEY, DIN, IV or MSG stores the value and leaves every other register,
the flags and all else; a write to a read-only register changes nothing; a write to CTRL sets IE alone; a write to
STATUS clears DONE and WOB where its bit is 1 and changes nothing else (R25). A write to CMD has its own statement. -/
def Obligations.WriteStoresInOneRegister : Prop :=
  ∀ (r : Reg) (v : Word) (s : State), s.dev.busy = false →
    (storesValue r = true → ∃ t, busWrite r.offset 32 v s = (.okay, t) ∧ readval t.dev r = v ∧
      (∀ q : Reg, q ≠ r → readval t.dev q = readval s.dev q) ∧ t.dev.pending = s.dev.pending ∧
      t = { s with dev := t.dev }) ∧
    (readOnly r = true → busWrite r.offset 32 v s = (.okay, s)) ∧
    (r = .ctrl → busWrite r.offset 32 v s = (.okay, { s with dev := { s.dev with ie := v.getLsbD 0 } })) ∧
    (r = .status → busWrite r.offset 32 v s = (.okay, { s with dev := { s.dev with
      done := if v.getLsbD 1 then false else s.dev.done, wob := if v.getLsbD 6 then false else s.dev.wob } }))

/-- R220: a write of CMD while BUSY = 0 accepts the word, whatever it is; nothing of the block but pending, BUSY and
DONE changes. While BUSY = 1 the command is lost. -/
def Obligations.CmdWriteAcceptsTheWord : Prop :=
  (∀ (v : Word) (s : State), s.dev.busy = false → ∃ t, busWrite 0x008#12 32 v s = (.okay, t) ∧
    t.dev = { s.dev with pending := some v, busy := true, done := false } ∧
    t.script = s.script ∧ t.log = s.log ∧ t.failed = s.failed ∧ irq t.dev = false) ∧
  ∀ (v : Word) (s : State), s.dev.busy = true →
    busWrite 0x008#12 32 v s = (.okay, { s with dev := { s.dev with wob := true } })

/-- R274: a write that arrives while BUSY = 1 completes with OKAY, is discarded and sets WOB, whatever its register; a
malformed one gets ERROR and sets nothing; a write of STATUS with bit 6 = 1 clears WOB once BUSY = 0. -/
def Obligations.BusyWritesAreDiscarded : Prop :=
  (∀ (off : Offset) (v : Word) (s : State), s.dev.busy = true → MappedRange off →
    busWrite off 32 v s = (.okay, { s with dev := { s.dev with wob := true } })) ∧
  (∀ (off : Offset) (size : Nat) (v : Word) (s : State), s.dev.busy = true → (size ≠ 32 ∨ ¬ MappedRange off) →
    busWrite off size v s = (.error, s)) ∧
  ∀ (v : Word) (s : State), s.dev.busy = false → v.getLsbD 6 = true →
    ((busWrite 0x004#12 32 v s).2).dev.wob = false

/-- R61: the window begins at a multiple of 4096 and each of its addresses is one offset; no other address reaches
the block. -/
def Obligations.WindowAddressesAreItsOffsets : Prop :=
  Config.base % 4096 = 0 ∧ (∀ off : Offset, windowOffset (Config.base + off.toNat) = some off) ∧
  ∀ (addr : Nat) (off : Offset), windowOffset addr = some off → addr = Config.base + off.toNat

/-- R251: irq is IE ∧ DONE; it is low while BUSY = 1 in every state that meets the invariants, and after reset. -/
def Obligations.IrqIsLowWhileBusy : Prop :=
  (∀ d : Device, irq d = true ↔ d.ie = true ∧ d.done = true) ∧
  (∀ s : State, Inv s → s.dev.busy = true → irq s.dev = false) ∧
  ∀ (c : Coincidence) (s : State) (rest : List Action), irq (hostTurn (.reset c) rest s).dev = false

/-- R270, R271, R253: reset gives the reset state of the block whatever was pending or under way, and whatever it
coincides with: every register reads 0, no command is pending and irq is low, no transaction it cuts off is done, no
entropy is asked, and the completion it comes with never happens. Outside the block only the latency count, the count of
cut transactions and one response can change; the response to a cut transaction, a free value of that count, the block
and the offset, is the model's choice (log entry 17). -/
def Obligations.ResetAbandonsThePendingCommand : Prop :=
  (∀ r : Reg, readval Device.reset r = 0#32) ∧ Device.reset.pending = none ∧ Device.reset.mode = .idle ∧
  irq Device.reset = false ∧
  (∀ (c : Coincidence) (s : State), ∃ t, performAction (.reset c) s = t ∧ t.dev = Device.reset ∧
    t.script = s.script ∧ t.failed = s.failed ∧ t.draws = { s.draws with cut := t.draws.cut } ∧
    (t.log = s.log ∨ ∃ r, t.log = r :: s.log)) ∧
  (∀ (off : Offset) (size : Nat) (v : Word) (s : State),
    let u := { s with
      dev := Device.reset, lat := 0, draws := { s.draws with cut := s.draws.cut + 1 }
      log := (Config.cutResponse s.draws.cut s.dev off).toList ++ s.log }
    performAction (.reset (.read off size)) s = u ∧ performAction (.reset (.write off size v)) s = u) ∧
  ∀ (s : State) (rest : List Action), s.script = .reset .completion :: rest →
    ∃ t, step s = .next t ∧ t.dev = Device.reset ∧ t.script = rest ∧ t.draws = s.draws

/-- R98: from a state with BUSY = 0, `load` writes a group's registers with the bytes, big-endian, missing bytes being
0x00, and leaves the rest of the block. That bytes past the group's last register are dropped is the model's choice,
since the rule gives `load` no more than 4k bytes (log entry 14). BE32 is written out, and BYTES is its inverse (R15). -/
def Obligations.LoadStoresTheBytes : Prop :=
  (∀ a b c d : Byte, (be32 a b c d).toNat = a.toNat * 2 ^ 24 + b.toNat * 2 ^ 16 + c.toNat * 2 ^ 8 + d.toNat) ∧
  (∀ (k : Nat) (r : Vector Word k) (j : Fin k), let b := (bytesOf r).toList
    be32 (b.getD (4 * j.val) 0#8) (b.getD (4 * j.val + 1) 0#8) (b.getD (4 * j.val + 2) 0#8)
      (b.getD (4 * j.val + 3) 0#8) = r[j.val]) ∧
  ∀ (bs : List Byte) (s : State), s.dev.busy = false →
    let after := fun g => ((Stmt.load g bs).actions.foldl (fun u a => performAction a u) s).dev
    let w := fun j : Nat => be32 (bs.getD (4 * j) 0#8) (bs.getD (4 * j + 1) 0#8) (bs.getD (4 * j + 2) 0#8)
      (bs.getD (4 * j + 3) 0#8)
    after .key = { s.dev with key := Vector.ofFn fun j : Fin 8 => w j.val } ∧
    after .din = { s.dev with din := Vector.ofFn fun j : Fin 4 => w j.val } ∧
    after .iv = { s.dev with iv := Vector.ofFn fun j : Fin 4 => w j.val } ∧
    after .msg = { s.dev with msg := Vector.ofFn fun j : Fin 16 => w j.val }

/-! ## Time (R228, R284) -/

/-- R228, R275: whatever the host does between acceptance and completion, short of reset, the command leaves the same
block, but for WOB. That CBC_ENC_START rng gets the same entropy answer in both runs is the model's choice, since the
answer is a free value of the count of requests (log entry 3). -/
def Obligations.CompletionDoesNotDependOnWhatTheHostDidMeanwhile : Prop :=
  ∀ (i : Instr) (s : State) (acts : List Action), s.dev.busy = true → (∀ c, Action.reset c ∉ acts) →
    ∃ t u, exec i s = .next t ∧ exec i (acts.foldl (fun x a => performAction a x) s) = .next u ∧
      u.dev = { t.dev with wob := u.dev.wob } ∧ (t.dev.wob = true → u.dev.wob = true)

/-- R284, R227: an accepted command completes after at most `lat` actions of the host, unless one of them is reset.
The count, drawn at acceptance from the number of draws and the block, is the model's form of R13(a) (log entry 2). -/
def Obligations.AcceptedCommandsComplete : Prop :=
  (∀ (v : Word) (s : State), s.dev.busy = false → ∃ t, (busWrite 0x008#12 32 v s).2 = t ∧
    t.lat = Config.lat s.draws.lat t.dev ∧ t.draws = { s.draws with lat := s.draws.lat + 1 }) ∧
  ∀ (s : State) (v : Word), s.dev.busy = true → s.dev.pending = some v → (∀ c, Action.reset c ∉ s.script) →
    ∃ k u t, k ≤ s.lat ∧ core.run k s = .next u ∧ u.dev.pending = some v ∧ step u = .next t ∧
      t.dev.busy = false ∧ t.dev.done = true

/-! ## The functions: SHA-256 (R113, R115) -/

/-- R113: the first 16 words of the schedule are the block's words, and the others satisfy the recurrence. -/
def Obligations.MessageScheduleSatisfiesItsRecurrence : Prop :=
  ∀ m : Vector Byte 64, (schedule m).length = 64 ∧
    (∀ t : Fin 16, (schedule m).getD t.val 0#32 =
      be32 m[4 * t.val] m[4 * t.val + 1] m[4 * t.val + 2] m[4 * t.val + 3]) ∧
    ∀ t : Nat, 16 ≤ t → t ≤ 63 →
      let w := fun j => (schedule m).getD j 0#32
      w t = ((w (t - 2)).rotateRight 17 ^^^ (w (t - 2)).rotateRight 19 ^^^ (w (t - 2)) >>> 10) + w (t - 7) +
        ((w (t - 15)).rotateRight 7 ^^^ (w (t - 15)).rotateRight 18 ^^^ (w (t - 15)) >>> 3) + w (t - 16)

/-- R115: the padded tail is one block for n ≤ 55 and two for 56 ≤ n ≤ 63, and its bytes are T ‖ 0x80 ‖ zeros ‖ the
64-bit length. -/
def Obligations.FinalPaddingHasItsShape : Prop :=
  ∀ (t : List Byte) (l : BitVec 64), t.length ≤ 63 →
    (padFinal t l).length = (if t.length ≤ 55 then 1 else 2) ∧
    (padFinal t l).flatMap (fun b => b.toList) =
      t ++ [0x80#8] ++ List.replicate (if t.length ≤ 55 then 55 - t.length else 119 - t.length) 0x00#8 ++
        (List.range 8).map fun j => BitVec.ofNat 8 (l.toNat / 2 ^ (56 - 8 * j))

/-- R119: the commands of the host sequence leave in HASH the SHA-256 of the message, from every state. That each load
of MSG is one update of the block, with no bus write, acceptance or wait, is the model's choice (log entry 14). For
2^64 bits or more the length counts modulo 2^64, and the result is R120's and no FIPS-180-4 digest. -/
def Obligations.HashSequenceComputesSha256 : Prop :=
  ∀ (m : List Byte) (s : State), ∃ t, hashMessage m s = .next t ∧ t.dev.err = .ok ∧
    t.dev.hash = sha256 m ∧ t.dev.shalen = BitVec.ofNat 64 (8 * m.length) ∧ t.dev.shaact = false

/-! ## The functions: AES (R143, R160-R175) -/

/-- R160: gmul is commutative, associative and distributes over ⊕, 0x01 is its unit, every nonzero byte has an inverse,
and the product with x is reduced modulo x^8 + x^4 + x^3 + x + 1. -/
def Obligations.GmulIsTheFieldProduct : Prop :=
  (∀ a b : Byte, gmul a b = gmul b a) ∧ (∀ a b c : Byte, gmul (gmul a b) c = gmul a (gmul b c)) ∧
  (∀ a b c : Byte, gmul a (b ^^^ c) = gmul a b ^^^ gmul a c) ∧ (∀ a : Byte, gmul a 0x01#8 = a) ∧
  (∀ a : Byte, gmul a 0x02#8 = (a <<< 1) ^^^ (if a.getLsbD 7 then 0x1B#8 else 0x00#8)) ∧
  ∀ a : Byte, a ≠ 0x00#8 → ∃ b, gmul a b = 0x01#8

/-- R161: with Aff as the rule defines it, the table of R162 is the one the definition gives, and the table of R163 is its inverse. -/
def Obligations.SboxTablesMatchTheirDefinition : Prop :=
  sbox 0x00#8 = aff 0x00#8 ∧ (∀ a b : Byte, gmul a b = 0x01#8 → sbox a = aff b) ∧
  (∀ a : Byte, invSbox (sbox a) = a) ∧ ∀ a : Byte, sbox (invSbox a) = a

/-- R143, R140, R141: the first eight words are the key's, and the others satisfy the recurrence. R142: SubWord is S on
each of the four bytes. -/
def Obligations.KeyScheduleSatisfiesItsRecurrence : Prop :=
  (∀ a b c d : Byte, subWord (be32 a b c d) = be32 (sbox a) (sbox b) (sbox c) (sbox d)) ∧
  ∀ k : Vector Byte 32,
    let w := fun j => (keyExpansion k).toList.getD j 0#32
    (∀ j : Fin 8, w j.val = be32 k[4 * j.val] k[4 * j.val + 1] k[4 * j.val + 2] k[4 * j.val + 3]) ∧
    ∀ i : Nat, 8 ≤ i → i ≤ 59 →
      w i = w (i - 8) ^^^
        (if i % 8 = 0 then subWord ((w (i - 1)).rotateLeft 8) ^^^ BitVec.ofNat 32 (2 ^ (i / 8 - 1) * 2 ^ 24)
         else if i % 8 = 4 then subWord (w (i - 1)) else w (i - 1))

/-- R175: InvCipher and Cipher undo each other, for every block and every 60 words RK. -/
def Obligations.InvCipherUndoesCipher : Prop :=
  ∀ (b : Block) (rk : Vector Word 60), invCipher (cipher b rk) rk = b ∧ cipher (invCipher b rk) rk = b

/-! ## The functions: padding (R190-R195) -/

/-- R195, R190, R192: a padded block is the data and 16 − n bytes of 16 − n, always unpads and gives back the count and
the data; so does PAD n, DOUT copied into DIN, then UNPAD. -/
def Obligations.PaddedBlocksUnpad : Prop :=
  (∀ (n : Nat) (t : List Byte), n < 16 → t.length = n →
    (padBlock t n).toList = t ++ List.replicate (16 - n) (BitVec.ofNat 8 (16 - n)) ∧
    PaddingHolds (padBlock t n) ∧ 16 - ((padBlock t n)[15]).toNat = n ∧ (padBlock t n).toList.take n = t) ∧
  ∀ (n : Nat) (s : State), n < 16 → ∃ t u, exec (.pad n) s = .next t ∧
    exec .unpad { t with dev := { t.dev with din := t.dev.dout } } = .next u ∧ u.dev.err = .ok ∧
    u.dev.cnt.toNat = n ∧
    (bytesOf (k := 4) u.dev.dout).toList.take n = (bytesOf (k := 4) s.dev.din).toList.take n

/-- R191, R192: a padded message is its full blocks and PadBlock of the rest; UnpadOK is its wording; and the source's
unpad of whole blocks looks at the last block alone. -/
def Obligations.MessagePaddingWorksOnTheLastBlock : Prop :=
  (∀ p : List Byte, (padMessage p).length = 16 * (p.length / 16 + 1) ∧
    blocks16 (padMessage p) =
      blocks16 p ++ [padBlock (p.drop (16 * (p.length / 16))) (p.length % 16)]) ∧
  (∀ x : Block, unpadOK x = true ↔ PaddingHolds x) ∧
  ∀ (bs : List Block) (x : Block),
    ((∃ p, unpadMessage (blocksBytes (bs ++ [x])) = some p) ↔ PaddingHolds x) ∧
    (PaddingHolds x → unpadMessage (blocksBytes (bs ++ [x])) =
      some (blocksBytes bs ++ x.toList.take (16 - x[15].toNat)))

/-! ## The host protocols (R208-R210) -/

/-- R210(a): run with a schedule loaded and no session open, the commands of R208 output the source's encryption, with
the host's IV or with the entropy answer; without an answer they fail and open no session. The protocol as commands with
each load as one update of the block is the model's choice (log entry 14), and so is the form of the answer, a free
value applied to a count (log entry 3). -/
def Obligations.EncryptProtocolIsTheSourcesEncrypt : Prop :=
  ∀ (p filler : List Byte) (s : State), p.length < 2 ^ 32 → s.dev.keyvalid = true → s.dev.mode = .idle →
    (∃ t, encryptMessage .iv p filler s = .next (some (sourceEncrypt s.dev.rk (bytesOf s.dev.iv) p), t) ∧
      t.dev.mode = .idle ∧ t.dev.err = .ok) ∧
    match Config.entropy s.draws.entropy with
    | some iv => ∃ t, encryptMessage .rng p filler s = .next (some (sourceEncrypt s.dev.rk iv p), t) ∧
        t.dev.mode = .idle ∧ t.dev.err = .ok
    | none => ∃ t, encryptMessage .rng p filler s = .next (none, t) ∧ t.dev.mode = .idle ∧ t.dev.err = .rngfail

/-- R210(b): the commands of R209 output the source's decryption, and fail with BADLEN or BADPAD exactly as it does.
The protocol as commands with each load as one update of the block is the model's choice (log entry 14). -/
def Obligations.DecryptProtocolIsTheSourcesDecrypt : Prop :=
  ∀ (c : List Byte) (s : State), c.length < 2 ^ 32 → s.dev.keyvalid = true → s.dev.mode = .idle →
    ∃ t, decryptMessage c s = .next (sourceDecrypt s.dev.rk c, t) ∧ t.dev.mode = .idle

/-- R210(c): what the commands of R208 output, those of R209 with the same schedule decrypt to the plaintext, for
|P| ≤ 0xFFFFFFDF: with the host's IV, and with the entropy answer, if there is one. The protocols as commands with each
load as one update of the block are the model's choice (log entry 14), and so is the form of the answer (log entry 3). -/
def Obligations.DecryptionReturnsThePlaintext : Prop :=
  ∀ (p filler : List Byte) (s : State), p.length ≤ 0xFFFFFFDF → s.dev.keyvalid = true → s.dev.mode = .idle →
    (∃ c t u, encryptMessage .iv p filler s = .next (some c, t) ∧
      decryptMessage (blocksBytes c) t = .next (.ok p, u)) ∧
    match Config.entropy s.draws.entropy with
    | some iv => ∃ c t u, encryptMessage .rng p filler s = .next (some (iv :: c), t) ∧
        decryptMessage (blocksBytes (iv :: c)) t = .next (.ok p, u)
    | none => ∃ t, encryptMessage .rng p filler s = .next (none, t) ∧ t.dev.err = .rngfail

/-- R210(d): a valid ciphertext with one byte changed never decrypts to the plaintext. -/
def Obligations.TamperedCiphertextNeverGivesThePlaintext : Prop :=
  ∀ (rk : Vector Word 60) (iv : Block) (p : List Byte) (j : Nat) (b : Byte),
    j < (blocksBytes (sourceEncrypt rk iv p)).length → b ≠ (blocksBytes (sourceEncrypt rk iv p)).getD j 0#8 →
    sourceDecrypt rk ((blocksBytes (sourceEncrypt rk iv p)).set j b) ≠ .ok p

/-! ## The SHA-256 rounds (R111, R112, R114) -/

/-- R114: Compress is the 64 rounds over the schedule, from the hash words, which are then added; with the constants of
R111 by their definition, and the functions of R112 written out. -/
def Obligations.CompressionFollowsItsRounds : Prop :=
  ∃ k : Nat → Word, (∀ t, t < 64 → IsRoundConstant (first64Primes.getD t 0) (k t)) ∧
    ∀ (h : Vector Word 8) (m : Vector Byte 64), ∃ x : Nat → Working,
      x 0 = ⟨h[0], h[1], h[2], h[3], h[4], h[5], h[6], h[7]⟩ ∧
      (∀ t, t < 64 → let t1 := roundT1 (x t) (k t) ((schedule m).getD t 0#32)
        x (t + 1) = ⟨t1 + roundT2 (x t), (x t).a, (x t).b, (x t).c, (x t).d + t1, (x t).e, (x t).f, (x t).g⟩) ∧
      compress h m = #v[h[0] + (x 64).a, h[1] + (x 64).b, h[2] + (x 64).c, h[3] + (x 64).d,
        h[4] + (x 64).e, h[5] + (x 64).f, h[6] + (x 64).g, h[7] + (x 64).h]
end

