-- ==== Sys2Proof/Laws/State.lean ====
section
/-! SUPPORT. One lemma per field per update of the state, each true by rfl, so that no later proof unfolds a record
update. -/

namespace Sys2Proof.Machine

/-! ### `Device.accept` (R220) -/

@[simp] theorem Device.accept_ie (v : Word) (d : Device) : (d.accept v).ie = d.ie := rfl
@[simp] theorem Device.accept_busy (v : Word) (d : Device) : (d.accept v).busy = true := rfl
@[simp] theorem Device.accept_done (v : Word) (d : Device) : (d.accept v).done = false := rfl
@[simp] theorem Device.accept_keyvalid (v : Word) (d : Device) : (d.accept v).keyvalid = d.keyvalid := rfl
@[simp] theorem Device.accept_shaact (v : Word) (d : Device) : (d.accept v).shaact = d.shaact := rfl
@[simp] theorem Device.accept_mode (v : Word) (d : Device) : (d.accept v).mode = d.mode := rfl
@[simp] theorem Device.accept_wob (v : Word) (d : Device) : (d.accept v).wob = d.wob := rfl
@[simp] theorem Device.accept_err (v : Word) (d : Device) : (d.accept v).err = d.err := rfl
@[simp] theorem Device.accept_len (v : Word) (d : Device) : (d.accept v).len = d.len := rfl
@[simp] theorem Device.accept_cnt (v : Word) (d : Device) : (d.accept v).cnt = d.cnt := rfl
@[simp] theorem Device.accept_blkrem (v : Word) (d : Device) : (d.accept v).blkrem = d.blkrem := rfl
@[simp] theorem Device.accept_tail (v : Word) (d : Device) : (d.accept v).tail = d.tail := rfl
@[simp] theorem Device.accept_key (v : Word) (d : Device) : (d.accept v).key = d.key := rfl
@[simp] theorem Device.accept_din (v : Word) (d : Device) : (d.accept v).din = d.din := rfl
@[simp] theorem Device.accept_dout (v : Word) (d : Device) : (d.accept v).dout = d.dout := rfl
@[simp] theorem Device.accept_iv (v : Word) (d : Device) : (d.accept v).iv = d.iv := rfl
@[simp] theorem Device.accept_chain (v : Word) (d : Device) : (d.accept v).chain = d.chain := rfl
@[simp] theorem Device.accept_msg (v : Word) (d : Device) : (d.accept v).msg = d.msg := rfl
@[simp] theorem Device.accept_hash (v : Word) (d : Device) : (d.accept v).hash = d.hash := rfl
@[simp] theorem Device.accept_shalen (v : Word) (d : Device) : (d.accept v).shalen = d.shalen := rfl
@[simp] theorem Device.accept_rk (v : Word) (d : Device) : (d.accept v).rk = d.rk := rfl
@[simp] theorem Device.accept_pending (v : Word) (d : Device) : (d.accept v).pending = some v := rfl

/-! ### `Device.complete` (R222) -/

@[simp] theorem Device.complete_ie (c : ErrCode) (d : Device) : (d.complete c).ie = d.ie := rfl
@[simp] theorem Device.complete_busy (c : ErrCode) (d : Device) : (d.complete c).busy = false := rfl
@[simp] theorem Device.complete_done (c : ErrCode) (d : Device) : (d.complete c).done = true := rfl
@[simp] theorem Device.complete_keyvalid (c : ErrCode) (d : Device) : (d.complete c).keyvalid = d.keyvalid := rfl
@[simp] theorem Device.complete_shaact (c : ErrCode) (d : Device) : (d.complete c).shaact = d.shaact := rfl
@[simp] theorem Device.complete_mode (c : ErrCode) (d : Device) : (d.complete c).mode = d.mode := rfl
@[simp] theorem Device.complete_wob (c : ErrCode) (d : Device) : (d.complete c).wob = d.wob := rfl
@[simp] theorem Device.complete_err (c : ErrCode) (d : Device) : (d.complete c).err = c := rfl
@[simp] theorem Device.complete_len (c : ErrCode) (d : Device) : (d.complete c).len = d.len := rfl
@[simp] theorem Device.complete_cnt (c : ErrCode) (d : Device) : (d.complete c).cnt = d.cnt := rfl
@[simp] theorem Device.complete_blkrem (c : ErrCode) (d : Device) : (d.complete c).blkrem = d.blkrem := rfl
@[simp] theorem Device.complete_tail (c : ErrCode) (d : Device) : (d.complete c).tail = d.tail := rfl
@[simp] theorem Device.complete_key (c : ErrCode) (d : Device) : (d.complete c).key = d.key := rfl
@[simp] theorem Device.complete_din (c : ErrCode) (d : Device) : (d.complete c).din = d.din := rfl
@[simp] theorem Device.complete_dout (c : ErrCode) (d : Device) : (d.complete c).dout = d.dout := rfl
@[simp] theorem Device.complete_iv (c : ErrCode) (d : Device) : (d.complete c).iv = d.iv := rfl
@[simp] theorem Device.complete_chain (c : ErrCode) (d : Device) : (d.complete c).chain = d.chain := rfl
@[simp] theorem Device.complete_msg (c : ErrCode) (d : Device) : (d.complete c).msg = d.msg := rfl
@[simp] theorem Device.complete_hash (c : ErrCode) (d : Device) : (d.complete c).hash = d.hash := rfl
@[simp] theorem Device.complete_shalen (c : ErrCode) (d : Device) : (d.complete c).shalen = d.shalen := rfl
@[simp] theorem Device.complete_rk (c : ErrCode) (d : Device) : (d.complete c).rk = d.rk := rfl
@[simp] theorem Device.complete_pending (c : ErrCode) (d : Device) : (d.complete c).pending = none := rfl

/-! ### `clearFlags` (R25) -/

@[simp] theorem clearFlags_ie (v : Word) (d : Device) : (clearFlags v d).ie = d.ie := rfl
@[simp] theorem clearFlags_busy (v : Word) (d : Device) : (clearFlags v d).busy = d.busy := rfl
@[simp] theorem clearFlags_done (v : Word) (d : Device) : (clearFlags v d).done = (d.done && !v.getLsbD 1) := rfl
@[simp] theorem clearFlags_keyvalid (v : Word) (d : Device) : (clearFlags v d).keyvalid = d.keyvalid := rfl
@[simp] theorem clearFlags_shaact (v : Word) (d : Device) : (clearFlags v d).shaact = d.shaact := rfl
@[simp] theorem clearFlags_mode (v : Word) (d : Device) : (clearFlags v d).mode = d.mode := rfl
@[simp] theorem clearFlags_wob (v : Word) (d : Device) : (clearFlags v d).wob = (d.wob && !v.getLsbD 6) := rfl
@[simp] theorem clearFlags_err (v : Word) (d : Device) : (clearFlags v d).err = d.err := rfl
@[simp] theorem clearFlags_len (v : Word) (d : Device) : (clearFlags v d).len = d.len := rfl
@[simp] theorem clearFlags_cnt (v : Word) (d : Device) : (clearFlags v d).cnt = d.cnt := rfl
@[simp] theorem clearFlags_blkrem (v : Word) (d : Device) : (clearFlags v d).blkrem = d.blkrem := rfl
@[simp] theorem clearFlags_tail (v : Word) (d : Device) : (clearFlags v d).tail = d.tail := rfl
@[simp] theorem clearFlags_key (v : Word) (d : Device) : (clearFlags v d).key = d.key := rfl
@[simp] theorem clearFlags_din (v : Word) (d : Device) : (clearFlags v d).din = d.din := rfl
@[simp] theorem clearFlags_dout (v : Word) (d : Device) : (clearFlags v d).dout = d.dout := rfl
@[simp] theorem clearFlags_iv (v : Word) (d : Device) : (clearFlags v d).iv = d.iv := rfl
@[simp] theorem clearFlags_chain (v : Word) (d : Device) : (clearFlags v d).chain = d.chain := rfl
@[simp] theorem clearFlags_msg (v : Word) (d : Device) : (clearFlags v d).msg = d.msg := rfl
@[simp] theorem clearFlags_hash (v : Word) (d : Device) : (clearFlags v d).hash = d.hash := rfl
@[simp] theorem clearFlags_shalen (v : Word) (d : Device) : (clearFlags v d).shalen = d.shalen := rfl
@[simp] theorem clearFlags_rk (v : Word) (d : Device) : (clearFlags v d).rk = d.rk := rfl
@[simp] theorem clearFlags_pending (v : Word) (d : Device) : (clearFlags v d).pending = d.pending := rfl

/-! ### `clearDevice` (R225) -/

@[simp] theorem clearDevice_ie (d : Device) : (clearDevice d).ie = d.ie := rfl
@[simp] theorem clearDevice_busy (d : Device) : (clearDevice d).busy = d.busy := rfl
@[simp] theorem clearDevice_done (d : Device) : (clearDevice d).done = d.done := rfl
@[simp] theorem clearDevice_keyvalid (d : Device) : (clearDevice d).keyvalid = false := rfl
@[simp] theorem clearDevice_shaact (d : Device) : (clearDevice d).shaact = false := rfl
@[simp] theorem clearDevice_mode (d : Device) : (clearDevice d).mode = .idle := rfl
@[simp] theorem clearDevice_wob (d : Device) : (clearDevice d).wob = d.wob := rfl
@[simp] theorem clearDevice_err (d : Device) : (clearDevice d).err = d.err := rfl
@[simp] theorem clearDevice_len (d : Device) : (clearDevice d).len = 0#32 := rfl
@[simp] theorem clearDevice_cnt (d : Device) : (clearDevice d).cnt = 0#4 := rfl
@[simp] theorem clearDevice_blkrem (d : Device) : (clearDevice d).blkrem = 0#29 := rfl
@[simp] theorem clearDevice_tail (d : Device) : (clearDevice d).tail = 0#4 := rfl
@[simp] theorem clearDevice_key (d : Device) : (clearDevice d).key = Vector.replicate 8 0#32 := rfl
@[simp] theorem clearDevice_din (d : Device) : (clearDevice d).din = Vector.replicate 4 0#32 := rfl
@[simp] theorem clearDevice_dout (d : Device) : (clearDevice d).dout = Vector.replicate 4 0#32 := rfl
@[simp] theorem clearDevice_iv (d : Device) : (clearDevice d).iv = Vector.replicate 4 0#32 := rfl
@[simp] theorem clearDevice_chain (d : Device) : (clearDevice d).chain = Vector.replicate 4 0#32 := rfl
@[simp] theorem clearDevice_msg (d : Device) : (clearDevice d).msg = Vector.replicate 16 0#32 := rfl
@[simp] theorem clearDevice_hash (d : Device) : (clearDevice d).hash = Vector.replicate 8 0#32 := rfl
@[simp] theorem clearDevice_shalen (d : Device) : (clearDevice d).shalen = 0#64 := rfl
@[simp] theorem clearDevice_rk (d : Device) : (clearDevice d).rk = Vector.replicate 60 0#32 := rfl
@[simp] theorem clearDevice_pending (d : Device) : (clearDevice d).pending = d.pending := rfl

/-! ### `openEncryption` (R201) -/

@[simp] theorem openEncryption_ie (w : Vector Word 4) (d : Device) : (openEncryption w d).ie = d.ie := rfl
@[simp] theorem openEncryption_busy (w : Vector Word 4) (d : Device) : (openEncryption w d).busy = d.busy := rfl
@[simp] theorem openEncryption_done (w : Vector Word 4) (d : Device) : (openEncryption w d).done = d.done := rfl
@[simp] theorem openEncryption_keyvalid (w : Vector Word 4) (d : Device) : (openEncryption w d).keyvalid = d.keyvalid := rfl
@[simp] theorem openEncryption_shaact (w : Vector Word 4) (d : Device) : (openEncryption w d).shaact = d.shaact := rfl
@[simp] theorem openEncryption_mode (w : Vector Word 4) (d : Device) : (openEncryption w d).mode = .enc := rfl
@[simp] theorem openEncryption_wob (w : Vector Word 4) (d : Device) : (openEncryption w d).wob = d.wob := rfl
@[simp] theorem openEncryption_err (w : Vector Word 4) (d : Device) : (openEncryption w d).err = d.err := rfl
@[simp] theorem openEncryption_len (w : Vector Word 4) (d : Device) : (openEncryption w d).len = d.len := rfl
@[simp] theorem openEncryption_cnt (w : Vector Word 4) (d : Device) : (openEncryption w d).cnt = d.cnt := rfl
@[simp] theorem openEncryption_blkrem (w : Vector Word 4) (d : Device) : (openEncryption w d).blkrem = encBlocks d.len := rfl
@[simp] theorem openEncryption_tail (w : Vector Word 4) (d : Device) : (openEncryption w d).tail = encTail d.len := rfl
@[simp] theorem openEncryption_key (w : Vector Word 4) (d : Device) : (openEncryption w d).key = d.key := rfl
@[simp] theorem openEncryption_din (w : Vector Word 4) (d : Device) : (openEncryption w d).din = d.din := rfl
@[simp] theorem openEncryption_dout (w : Vector Word 4) (d : Device) : (openEncryption w d).dout = d.dout := rfl
@[simp] theorem openEncryption_iv (w : Vector Word 4) (d : Device) : (openEncryption w d).iv = w := rfl
@[simp] theorem openEncryption_chain (w : Vector Word 4) (d : Device) : (openEncryption w d).chain = w := rfl
@[simp] theorem openEncryption_msg (w : Vector Word 4) (d : Device) : (openEncryption w d).msg = d.msg := rfl
@[simp] theorem openEncryption_hash (w : Vector Word 4) (d : Device) : (openEncryption w d).hash = d.hash := rfl
@[simp] theorem openEncryption_shalen (w : Vector Word 4) (d : Device) : (openEncryption w d).shalen = d.shalen := rfl
@[simp] theorem openEncryption_rk (w : Vector Word 4) (d : Device) : (openEncryption w d).rk = d.rk := rfl
@[simp] theorem openEncryption_pending (w : Vector Word 4) (d : Device) : (openEncryption w d).pending = d.pending := rfl

/-! ### `accept` (R220) -/

@[simp] theorem accept_dev (v : Word) (s : State) : (accept v s).dev = s.dev.accept v := rfl
@[simp] theorem accept_script (v : Word) (s : State) : (accept v s).script = s.script := rfl
@[simp] theorem accept_lat (v : Word) (s : State) : (accept v s).lat = Config.lat s.draws.lat (s.dev.accept v) := rfl
@[simp] theorem accept_draws (v : Word) (s : State) : (accept v s).draws = { s.draws with lat := s.draws.lat + 1 } := rfl
@[simp] theorem accept_log (v : Word) (s : State) : (accept v s).log = s.log := rfl
@[simp] theorem accept_failed (v : Word) (s : State) : (accept v s).failed = s.failed := rfl

/-! ### `resetDevice` (R270) -/

@[simp] theorem resetDevice_dev (s : State) : (resetDevice s).dev = Device.reset := rfl
@[simp] theorem resetDevice_script (s : State) : (resetDevice s).script = s.script := rfl
@[simp] theorem resetDevice_lat (s : State) : (resetDevice s).lat = 0 := rfl
@[simp] theorem resetDevice_draws (s : State) : (resetDevice s).draws = s.draws := rfl
@[simp] theorem resetDevice_log (s : State) : (resetDevice s).log = s.log := rfl
@[simp] theorem resetDevice_failed (s : State) : (resetDevice s).failed = s.failed := rfl

/-! ### `respond` -/

@[simp] theorem respond_dev (r : Response) (s : State) : (respond r s).dev = s.dev := rfl
@[simp] theorem respond_script (r : Response) (s : State) : (respond r s).script = s.script := rfl
@[simp] theorem respond_lat (r : Response) (s : State) : (respond r s).lat = s.lat := rfl
@[simp] theorem respond_draws (r : Response) (s : State) : (respond r s).draws = s.draws := rfl
@[simp] theorem respond_log (r : Response) (s : State) : (respond r s).log = r :: s.log := rfl
@[simp] theorem respond_failed (r : Response) (s : State) : (respond r s).failed = s.failed := rfl

/-! ### `discardWrite` (R274) -/

@[simp] theorem discardWrite_dev (s : State) : (discardWrite s).dev = { s.dev with wob := true } := rfl
@[simp] theorem discardWrite_script (s : State) : (discardWrite s).script = s.script := rfl
@[simp] theorem discardWrite_lat (s : State) : (discardWrite s).lat = s.lat := rfl
@[simp] theorem discardWrite_draws (s : State) : (discardWrite s).draws = s.draws := rfl
@[simp] theorem discardWrite_log (s : State) : (discardWrite s).log = s.log := rfl
@[simp] theorem discardWrite_failed (s : State) : (discardWrite s).failed = s.failed := rfl

/-! ### `requestEntropy` (R57) -/

@[simp] theorem requestEntropy_dev (s : State) : ((requestEntropy s).2).dev = s.dev := rfl
@[simp] theorem requestEntropy_script (s : State) : ((requestEntropy s).2).script = s.script := rfl
@[simp] theorem requestEntropy_lat (s : State) : ((requestEntropy s).2).lat = s.lat := rfl
@[simp] theorem requestEntropy_draws (s : State) : ((requestEntropy s).2).draws = { s.draws with entropy := s.draws.entropy + 1 } := rfl
@[simp] theorem requestEntropy_log (s : State) : ((requestEntropy s).2).log = s.log := rfl
@[simp] theorem requestEntropy_failed (s : State) : ((requestEntropy s).2).failed = s.failed := rfl

@[simp] theorem requestEntropy_answer (s : State) : (requestEntropy s).1 = Config.entropy s.draws.entropy := rfl

/-! ### `drawBusyRead` (R75) -/

@[simp] theorem drawBusyRead_dev (off : Offset) (s : State) : ((drawBusyRead off s).2).dev = s.dev := rfl
@[simp] theorem drawBusyRead_script (off : Offset) (s : State) : ((drawBusyRead off s).2).script = s.script := rfl
@[simp] theorem drawBusyRead_lat (off : Offset) (s : State) : ((drawBusyRead off s).2).lat = s.lat := rfl
@[simp] theorem drawBusyRead_draws (off : Offset) (s : State) : ((drawBusyRead off s).2).draws = { s.draws with busyRead := s.draws.busyRead + 1 } := rfl
@[simp] theorem drawBusyRead_log (off : Offset) (s : State) : ((drawBusyRead off s).2).log = s.log := rfl
@[simp] theorem drawBusyRead_failed (off : Offset) (s : State) : ((drawBusyRead off s).2).failed = s.failed := rfl

end Sys2Proof.Machine
end

