-- ==== Sys2Proof/Laws/Ops.lean ====
section
/-! SUPPORT. One lemma for each shared operation that says everything it can do. -/

namespace Sys2Proof.Machine

/-! ### Completing a command (R222) -/

theorem finish_eq (code : ErrCode) (d : Device) (s : State) :
    finish code d s = .next { s with dev := d.complete code } := rfl

theorem raise_eq (code : ErrCode) (s : State) :
    raise code s = .next { s with dev := s.dev.complete code } := rfl

theorem finish_next {code : ErrCode} {d : Device} {s t : State} (h : finish code d s = .next t) :
    t = { s with dev := d.complete code } := by
  rw [finish_eq] at h
  exact (Host.Outcome.next.inj h).symm

theorem raise_next {code : ErrCode} {s t : State} (h : raise code s = .next t) :
    t = { s with dev := s.dev.complete code } := finish_next h

/-! ### Register writes (R71, R72) -/

/-- A write of any register but CMD changes the block alone. -/
theorem writeReg_env {r : Reg} (hr : r ≠ .cmd) (v : Word) (s : State) :
    writeReg r v s = { s with dev := (writeReg r v s).dev } := by
  cases r <;> simp_all [writeReg]

/-- A register write keeps every hidden or read-only field of the block, but for the acceptance of a command. -/
theorem writeReg_readonly (r : Reg) (v : Word) (s : State) :
    (writeReg r v s).dev.keyvalid = s.dev.keyvalid ∧ (writeReg r v s).dev.shaact = s.dev.shaact ∧
    (writeReg r v s).dev.mode = s.dev.mode ∧ (writeReg r v s).dev.err = s.dev.err ∧
    (writeReg r v s).dev.cnt = s.dev.cnt ∧ (writeReg r v s).dev.blkrem = s.dev.blkrem ∧
    (writeReg r v s).dev.tail = s.dev.tail ∧ (writeReg r v s).dev.dout = s.dev.dout ∧
    (writeReg r v s).dev.chain = s.dev.chain ∧ (writeReg r v s).dev.hash = s.dev.hash ∧
    (writeReg r v s).dev.shalen = s.dev.shalen ∧ (writeReg r v s).dev.rk = s.dev.rk := by
  cases r <;> simp [writeReg]

/-! ### Bus transactions (R70, R71, R76) -/

/-- A read answers ERROR and changes nothing, or gives a draw, or gives the register's value. -/
theorem busRead_cases (off : Offset) (size : Nat) (s : State) :
    ((malformed off size = true ∨ regAt off = none) ∧ busRead off size s = (.error, s)) ∨
    (∃ r, malformed off size = false ∧ regAt off = some r ∧ s.dev.busy = true ∧ r.isResult = true ∧
      busRead off size s = (.data (drawBusyRead off s).1, (drawBusyRead off s).2)) ∨
    (∃ r, malformed off size = false ∧ regAt off = some r ∧ (s.dev.busy = false ∨ r.isResult = false) ∧
      busRead off size s = (.data (readval s.dev r), s)) := by
  unfold busRead
  cases hm : malformed off size with
  | true => exact .inl ⟨.inl rfl, by simp⟩
  | false =>
    cases hr : regAt off with
    | none => exact .inl ⟨.inr rfl, by simp⟩
    | some r =>
      cases hb : s.dev.busy with
      | false => exact .inr (.inr ⟨r, rfl, rfl, .inl rfl, by simp⟩)
      | true =>
        cases hq : r.isResult with
        | true => exact .inr (.inl ⟨r, rfl, rfl, rfl, hq, by simp [hq]⟩)
        | false => exact .inr (.inr ⟨r, rfl, rfl, .inr hq, by simp [hq]⟩)

/-- A read never changes the block (R74). -/
@[simp] theorem busRead_dev (off : Offset) (size : Nat) (s : State) : (busRead off size s).2.dev = s.dev := by
  obtain ⟨-, h⟩ | ⟨r, -, -, -, -, h⟩ | ⟨r, -, -, -, h⟩ := busRead_cases off size s <;> simp [h]

@[simp] theorem busRead_failed (off : Offset) (size : Nat) (s : State) : (busRead off size s).2.failed = s.failed := by
  obtain ⟨-, h⟩ | ⟨r, -, -, -, -, h⟩ | ⟨r, -, -, -, h⟩ := busRead_cases off size s <;> rw [h] <;> rfl

/-- A write answers ERROR and changes nothing, or is discarded, or writes one register. -/
theorem busWrite_cases (off : Offset) (size : Nat) (v : Word) (s : State) :
    ((malformed off size = true ∨ regAt off = none) ∧ busWrite off size v s = (.error, s)) ∨
    (∃ r, malformed off size = false ∧ regAt off = some r ∧ s.dev.busy = true ∧
      busWrite off size v s = (.okay, discardWrite s)) ∨
    (∃ r, malformed off size = false ∧ regAt off = some r ∧ s.dev.busy = false ∧
      busWrite off size v s = (.okay, writeReg r v s)) := by
  unfold busWrite
  cases hm : malformed off size with
  | true => exact .inl ⟨.inl rfl, by simp⟩
  | false =>
    cases hr : regAt off with
    | none => exact .inl ⟨.inr rfl, by simp⟩
    | some r =>
      cases hb : s.dev.busy with
      | false => exact .inr (.inr ⟨r, rfl, rfl, rfl, by simp⟩)
      | true => exact .inr (.inl ⟨r, rfl, rfl, rfl, by simp⟩)

/-! ### The host's actions (R53, R55, R97) -/

/-- When an assertion holds (R97, R98). -/
theorem agrees_iff (mask want : Word) (r : Response) :
    r.agrees mask want = true ↔ ∃ w, r = .data w ∧ w &&& mask = want := by
  cases r <;> simp [Response.agrees]

@[simp] theorem performAction_read_dev (off : Offset) (size : Nat) (s : State) :
    (performAction (.read off size) s).dev = s.dev := by simp [performAction]

@[simp] theorem performAction_check_dev (off : Offset) (mask want : Word) (s : State) :
    (performAction (.check off mask want) s).dev = s.dev := by simp [performAction]

@[simp] theorem performAction_poll_dev (s : State) : (performAction .poll s).dev = s.dev := by
  simp [performAction]

@[simp] theorem performAction_write_dev (off : Offset) (size : Nat) (v : Word) (s : State) :
    (performAction (.write off size v) s).dev = (busWrite off size v s).2.dev := rfl

@[simp] theorem performAction_reset (c : Coincidence) (s : State) :
    performAction (.reset c) s = resetDevice (cutOff c s) := rfl

/-- What a cut transaction leaves: a draw is made, and at most one response is recorded. -/
theorem cutTransaction_cases (off : Offset) (s : State) :
    ∃ l, (l = s.log ∨ ∃ r, l = r :: s.log) ∧
      cutTransaction off s = { s with draws := { s.draws with cut := s.draws.cut + 1 }, log := l } := by
  unfold cutTransaction
  cases Config.cutResponse s.draws.cut s.dev off with
  | none => exact ⟨s.log, .inl rfl, rfl⟩
  | some r => exact ⟨r :: s.log, .inr ⟨r, rfl⟩, rfl⟩

/-- What the event a reset coincides with leaves: the block, the script, the latency, the failures and the draws of R13
are as they were. -/
theorem cutOff_cases (c : Coincidence) (s : State) :
    ∃ n l, (l = s.log ∨ ∃ r, l = r :: s.log) ∧ cutOff c s = { s with draws := { s.draws with cut := n }, log := l } := by
  cases c with
  | nothing => exact ⟨s.draws.cut, s.log, .inl rfl, rfl⟩
  | completion => exact ⟨s.draws.cut, s.log, .inl rfl, rfl⟩
  | read off size =>
    obtain ⟨l, hl, h⟩ := cutTransaction_cases off s
    exact ⟨_, l, hl, h⟩
  | write off size v =>
    obtain ⟨l, hl, h⟩ := cutTransaction_cases off s
    exact ⟨_, l, hl, h⟩

@[simp] theorem cutOff_dev (c : Coincidence) (s : State) : (cutOff c s).dev = s.dev := by
  obtain ⟨n, l, -, h⟩ := cutOff_cases c s
  rw [h]

@[simp] theorem cutOff_script (c : Coincidence) (s : State) : (cutOff c s).script = s.script := by
  obtain ⟨n, l, -, h⟩ := cutOff_cases c s
  rw [h]

@[simp] theorem cutOff_failed (c : Coincidence) (s : State) : (cutOff c s).failed = s.failed := by
  obtain ⟨n, l, -, h⟩ := cutOff_cases c s
  rw [h]

/-! ### Whose turn it is (R221) -/

theorem nextTurn_completion {s : State} (h : nextTurn s = .completion) :
    s.dev.busy = true ∧ (s.lat = 0 ∨ s.script = []) := by
  unfold nextTurn at h
  split at h
  · rename_i hs
    split at h
    · exact ⟨‹_›, .inr hs⟩
    · simp at h
  · split at h
    · rename_i hc
      simp only [Bool.and_eq_true, beq_iff_eq] at hc
      exact ⟨hc.1.1, .inl hc.1.2⟩
    · simp at h

theorem nextTurn_host {s : State} {a : Action} {rest : List Action} (h : nextTurn s = .host a rest) :
    s.script = a :: rest ∧ (s.dev.busy = false ∨ 0 < s.lat ∨ a = .reset .completion) := by
  unfold nextTurn at h
  split at h
  · split at h <;> simp at h
  · rename_i b rest' hs
    split at h
    · simp at h
    · rename_i hc
      simp only [Turn.host.injEq] at h
      obtain ⟨rfl, rfl⟩ := h
      refine ⟨hs, ?_⟩
      cases hb : s.dev.busy with
      | false => exact .inl rfl
      | true =>
        rcases Nat.eq_zero_or_pos s.lat with hl | hl
        · refine .inr (.inr ?_)
          have ht : b.takesCompletion = true := by simpa [hb, hl] using hc
          match b, ht with
          | .reset .completion, _ => rfl
        · exact .inr (.inl hl)

theorem nextTurn_idle {s : State} (h : nextTurn s = .idle) : s.dev.busy = false ∧ s.script = [] := by
  unfold nextTurn at h
  split at h
  · rename_i hs
    cases hb : s.dev.busy with
    | true => rw [hb] at h; simp at h
    | false => exact ⟨rfl, hs⟩
  · split at h <;> simp at h

/-! ### Going on after an outcome -/

@[simp] theorem andThen_next {α β : Type} (a : α) (f : α → Host.Outcome β Fault Refusal) :
    andThen (.next a) f = f a := rfl

end Sys2Proof.Machine
end

