-- ==== Sys2Proof/Laws/Bus.lean ====
section
/-! SUPPORT. The register map (R21, R62): every register is listed, and an offset names at most one. -/

namespace Sys2Proof.Machine

theorem mem_allRegs (r : Reg) : r ∈ allRegs := by
  cases r <;> simp [allRegs]

/-- What the map says of an offset it knows. -/
theorem offset_of_regAt {off : Offset} {r : Reg} (h : regAt off = some r) : r.offset = off := by
  have := List.find?_some h
  simpa using this

/-- The word index of a register's offset, as a number. -/
theorem groupOffset_toNat {base k : Nat} (h : base + 4 * k < 4096) : (groupOffset base k).toNat = base + 4 * k := by
  simpa [groupOffset, BitVec.toNat_ofNat] using Nat.mod_eq_of_lt h

/-- An unmapped offset is the offset of no register. -/
theorem regAt_eq_none {off : Offset} : regAt off = none ↔ ∀ r : Reg, r.offset ≠ off := by
  simp only [regAt, List.find?_eq_none]
  exact ⟨fun h r => by simpa using h r (mem_allRegs r), fun h r _ => by simpa using h r⟩

/-- Bit 0 of STATUS is BUSY (R25). -/
@[simp] theorem statusWord_busy (d : Device) : (statusWord d).getLsbD 0 = d.busy := by
  rw [statusWord, BitVec.getLsbD_setWidth, BitVec.getLsbD_append]
  simp

/-- What the host's `wait` does (R98): it reads STATUS, and stays first in the script while BUSY = 1. -/
theorem performAction_poll (s : State) : performAction .poll s =
    respond (.data (statusWord s.dev)) { s with script := if s.dev.busy then .poll :: s.script else s.script } := by
  have hm : malformed Reg.status.offset 32 = false := by decide
  have hg : regAt Reg.status.offset = some .status := by decide
  simp [performAction, busRead, hm, hg, Reg.isResult, Response.value, readval, statusWord_busy, -BitVec.getLsbD_eq_getElem]

end Sys2Proof.Machine
end

