-- ==== Sys2Proof/Laws/Bytes.lean ====
section
/-! SUPPORT. The packing of bytes into words (R15): each direction undoes the other. -/

namespace Sys2Proof.Machine

theorem wordByte_be32 (b0 b1 b2 b3 : Byte) :
    wordByte (be32 b0 b1 b2 b3) 0 = b0 ∧ wordByte (be32 b0 b1 b2 b3) 1 = b1 ∧
    wordByte (be32 b0 b1 b2 b3) 2 = b2 ∧ wordByte (be32 b0 b1 b2 b3) 3 = b3 := by
  refine ⟨?_, ?_, ?_, ?_⟩ <;>
    · apply BitVec.eq_of_getLsbD_eq
      intro i hi
      simp only [wordByte, be32, BitVec.getLsbD_extractLsb', BitVec.getLsbD_append, hi, decide_true, Bool.true_and]
      interval_cases i <;> simp

theorem be32_wordByte (w : Word) :
    be32 (wordByte w 0) (wordByte w 1) (wordByte w 2) (wordByte w 3) = w := by
  apply BitVec.eq_of_getLsbD_eq
  intro i hi
  simp only [wordByte, be32, BitVec.getLsbD_extractLsb', BitVec.getLsbD_append]
  interval_cases i <;> simp

@[simp] theorem bytesOf_getElem {k : Nat} (r : Vector Word k) (i : Nat) (h : i < 4 * k) :
    (bytesOf r)[i] = wordByte (r[i / 4]'(by omega)) (i % 4) := by
  simp [bytesOf]

@[simp] theorem wordsOf_getElem {k : Nat} (b : Vector Byte (4 * k)) (j : Nat) (h : j < k) :
    (wordsOf b)[j] = be32 b[4 * j] b[4 * j + 1] b[4 * j + 2] b[4 * j + 3] := by
  simp [wordsOf]

theorem wordsOf_bytesOf {k : Nat} (r : Vector Word k) : wordsOf (bytesOf r) = r := by
  ext1 j hj
  simp only [wordsOf_getElem, bytesOf_getElem]
  have h0 : 4 * j / 4 = j := by omega
  have h1 : (4 * j + 1) / 4 = j := by omega
  have h2 : (4 * j + 2) / 4 = j := by omega
  have h3 : (4 * j + 3) / 4 = j := by omega
  have m0 : 4 * j % 4 = 0 := by omega
  have m1 : (4 * j + 1) % 4 = 1 := by omega
  have m2 : (4 * j + 2) % 4 = 2 := by omega
  have m3 : (4 * j + 3) % 4 = 3 := by omega
  simp only [h0, h1, h2, h3, m0, m1, m2, m3, be32_wordByte]

theorem bytesOf_wordsOf {k : Nat} (b : Vector Byte (4 * k)) : bytesOf (wordsOf b) = b := by
  ext1 i hi
  simp only [bytesOf_getElem, wordsOf_getElem]
  obtain ⟨w0, w1, w2, w3⟩ :=
    wordByte_be32 (b[4 * (i / 4)]'(by omega)) (b[4 * (i / 4) + 1]'(by omega))
      (b[4 * (i / 4) + 2]'(by omega)) (b[4 * (i / 4) + 3]'(by omega))
  have hc : i % 4 = 0 ∨ i % 4 = 1 ∨ i % 4 = 2 ∨ i % 4 = 3 := by omega
  rcases hc with h | h | h | h <;> rw [h] <;> simp only [w0, w1, w2, w3] <;> congr 1 <;> omega

@[simp] theorem bytesOfList_getElem (n : Nat) (bs : List Byte) (i : Nat) (h : i < n) :
    (bytesOfList n bs)[i] = bs.getD i 0#8 := by
  simp [bytesOfList]

@[simp] theorem xorBlock_getElem (a b : Block) (i : Nat) (h : i < 16) : (xorBlock a b)[i] = a[i] ^^^ b[i] := by
  simp [xorBlock]

theorem xorBlock_cancel_left (a b : Block) : xorBlock a (xorBlock a b) = b := by
  ext1 i hi
  simp only [xorBlock_getElem]
  rw [← BitVec.xor_assoc, BitVec.xor_self, BitVec.zero_xor]

theorem xorBlock_cancel (a b : Block) : xorBlock (xorBlock a b) b = a := by
  ext1 i hi
  simp

end Sys2Proof.Machine
end

