-- ==== Sys2Proof/Laws/PerInstr.lean ====
section
/-! SUPPORT. One statement about every command as syntax: the shape of its word (R90). -/

namespace Sys2Proof.Laws.EncodeShape

/-- The opcode of a command (R92, column OP). -/
def opcode : Instr → BitVec 8
  | .nop => 0x00#8
  | .clear => 0x01#8
  | .shaInit => 0x10#8
  | .shaBlock => 0x11#8
  | .shaFinal _ => 0x12#8
  | .keyExpand _ => 0x20#8
  | .aesEnc => 0x21#8
  | .aesDec => 0x22#8
  | .pad _ => 0x30#8
  | .unpad => 0x31#8
  | .cbcEncStart _ => 0x40#8
  | .cbcEncBlock => 0x41#8
  | .cbcDecStart => 0x42#8
  | .cbcDecBlock => 0x43#8
  | .cbcAbort => 0x44#8

/-- R90: a well-formed command's word has its opcode in OP and 0 in RSVD. -/
def Statement (i : Instr) : Prop :=
  i.wellFormed = true → opField (encode i) = opcode i ∧ rsvdField (encode i) = 0#16

theorem nop : Statement .nop := fun _ => by decide
theorem clear : Statement .clear := fun _ => by decide
theorem shaInit : Statement .shaInit := fun _ => by decide
theorem shaBlock : Statement .shaBlock := fun _ => by decide
theorem shaFinal (n : Nat) : Statement (.shaFinal n) := fun h => by
  have hn : n < 64 := by simpa [Instr.wellFormed] using h
  interval_cases n <;> decide
theorem keyExpand (s : KeySource) : Statement (.keyExpand s) := fun _ => by cases s <;> decide
theorem aesEnc : Statement .aesEnc := fun _ => by decide
theorem aesDec : Statement .aesDec := fun _ => by decide
theorem pad (n : Nat) : Statement (.pad n) := fun h => by
  have hn : n < 16 := by simpa [Instr.wellFormed] using h
  interval_cases n <;> decide
theorem unpad : Statement .unpad := fun _ => by decide
theorem cbcEncStart (s : IvSource) : Statement (.cbcEncStart s) := fun _ => by cases s <;> decide
theorem cbcEncBlock : Statement .cbcEncBlock := fun _ => by decide
theorem cbcDecStart : Statement .cbcDecStart := fun _ => by decide
theorem cbcDecBlock : Statement .cbcDecBlock := fun _ => by decide
theorem cbcAbort : Statement .cbcAbort := fun _ => by decide

end Sys2Proof.Laws.EncodeShape
end

