-- ==== Sys2Proof/Laws/Step.lean ====
section
/-! SUPPORT. Everything a step can do (R221), said once. -/

namespace Sys2Proof.Machine

/-- A completion: the pending word is executed (R221, R223). -/
theorem step_completion {s : State} {v : Word} (ht : nextTurn s = .completion) (hp : s.dev.pending = some v) :
    step s = execute v s := by
  simp [step, ht, completion, hp]

theorem step_host {s : State} {a : Action} {rest : List Action} (ht : nextTurn s = .host a rest) :
    step s = .next (hostTurn a rest s) := by
  simp [step, ht]

/-- A step that answers a next state is the execution of the pending word, the first action of the script, or
nothing. -/
theorem step_cases {s t : State} (h : step s = .next t) :
    (∃ v, nextTurn s = .completion ∧ s.dev.pending = some v ∧ execute v s = .next t) ∨
    (∃ a rest, nextTurn s = .host a rest ∧ t = hostTurn a rest s) ∨
    (nextTurn s = .idle ∧ t = s) := by
  cases ht : nextTurn s with
  | completion =>
    cases hp : s.dev.pending with
    | none => simp [step, ht, completion, hp] at h
    | some v => exact .inl ⟨v, rfl, rfl, by rw [← h, step_completion ht hp]⟩
  | host a rest =>
    rw [step_host ht] at h
    exact .inr (.inl ⟨a, rest, rfl, (Host.Outcome.next.inj h).symm⟩)
  | idle =>
    simp only [step, ht] at h
    exact .inr (.inr ⟨rfl, (Host.Outcome.next.inj h).symm⟩)

/-- The execution of a word is its command's meaning, or the completion with ILLCMD (R223, R242). -/
theorem execute_cases (v : Word) (s : State) :
    (∃ i, decode v = .ok i ∧ execute v s = exec i s) ∨
    (∃ e, decode v = .error e ∧ execute v s = .next { s with dev := s.dev.complete .illcmd }) := by
  unfold execute
  cases decode v with
  | ok i => exact .inl ⟨i, rfl, rfl⟩
  | error e => exact .inr ⟨e, rfl, rfl⟩

/-- withFetchWord makes the word the next to be executed (R221). -/
theorem nextTurn_withFetchWord (s : State) (nbits w : Nat) : nextTurn (s.withFetchWord nbits w) = .completion := by
  have hd : ∀ l : List Action, ∀ a rest, l.dropWhile Action.takesCompletion = a :: rest → a.takesCompletion = false := by
    intro l a rest h
    have := List.head?_dropWhile_not Action.takesCompletion l
    simpa [h] using this
  unfold nextTurn
  cases h : (s.withFetchWord nbits w).script with
  | nil => rfl
  | cons a rest => simp [hd s.script a rest h, State.withFetchWord]

/-- No step but a completion changes the last key read (R49e). -/
theorem keyAfter_host {s : State} {a : Action} {rest : List Action} (ht : nextTurn s = .host a rest)
    (k : Option (Vector Byte 32)) : keyAfter s k = k := by
  simp [keyAfter, ht]

/-- The last key read after the completion of an executed word (R49e, R145). -/
theorem keyAfter_completion {s : State} {v : Word} {i : Instr} (ht : nextTurn s = .completion)
    (hp : s.dev.pending = some v) (hd : decode v = .ok i) (k : Option (Vector Byte 32)) :
    keyAfter s k =
      match i with
      | .keyExpand src => if s.dev.mode = .idle then some (keyBytes src s.dev) else k
      | _ => k := by
  simp only [keyAfter, ht, hp, hd]
  cases i with
  | keyExpand src => cases src <;> rfl
  | _ => rfl

end Sys2Proof.Machine
end

