-- ==== Sys2Proof/Laws/Tables.lean ====
section
/-! SUPPORT. The recursive word lists of SHA-256 and of KeyExpansion: their lengths, and that a step leaves the words
already there (R113, R143). And the entries of the AES state (R164). -/

namespace Sys2Proof.Machine

/-! ### Lists that grow by one word a step -/

@[simp] theorem scheduleStep_length (w : List Word) : (scheduleStep w).length = w.length + 1 := by
  simp [scheduleStep]

@[simp] theorem expandStep_length (w : List Word) : (expandStep w).length = w.length + 1 := by
  simp [expandStep]

theorem iterate_length {f : List Word → List Word} (hf : ∀ w, (f w).length = w.length + 1) (n : Nat) (w : List Word) :
    (f^[n] w).length = w.length + n := by
  induction n generalizing w with
  | zero => rfl
  | succ n ih => rw [Function.iterate_succ_apply, ih, hf]; omega

/-- A step that only appends leaves every word already there, and so does repeating it. -/
theorem iterate_getD {f : List Word → List Word} (hf : ∀ w, ∃ x, f w = w ++ [x]) (n : Nat) (w : List Word)
    {i : Nat} (hi : i < w.length) : (f^[n] w).getD i 0#32 = w.getD i 0#32 := by
  induction n generalizing w with
  | zero => rfl
  | succ n ih =>
    obtain ⟨x, hx⟩ := hf w
    rw [Function.iterate_succ_apply, ih _ (by rw [hx, List.length_append]; omega), hx,
      List.getD_append _ _ _ _ hi]

theorem scheduleStep_append (w : List Word) : ∃ x, scheduleStep w = w ++ [x] := ⟨_, rfl⟩

theorem expandStep_append (w : List Word) : ∃ x, expandStep w = w ++ [x] := ⟨_, rfl⟩

@[simp] theorem schedule_length (m : Vector Byte 64) : (schedule m).length = 64 := by
  rw [schedule, iterate_length scheduleStep_length]
  simp

/-! ### The AES state -/

@[simp] theorem entry_ofEntries (f : Fin 4 → Fin 4 → Byte) (r c : Fin 4) : entry (ofEntries f) r c = f r c := by
  have h1 : (r.val + 4 * c.val) % 4 = r.val := by omega
  have h2 : (r.val + 4 * c.val) / 4 = c.val := by omega
  simp [entry, ofEntries, h1, h2]

theorem block_ext_entry {a b : Block} (h : ∀ r c, entry a r c = entry b r c) : a = b := by
  ext1 i hi
  have := h ⟨i % 4, by omega⟩ ⟨i / 4, by omega⟩
  simp only [entry] at this
  have e : i % 4 + 4 * (i / 4) = i := by omega
  simpa only [e] using this

theorem ofEntries_entry (s : Block) : ofEntries (entry s) = s :=
  block_ext_entry fun r c => by simp

@[simp] theorem entry_addRoundKey (rk : Vector Word 60) (rnd : Fin 15) (s : Block) (r c : Fin 4) :
    entry (addRoundKey rk rnd s) r c = entry s r c ^^^ wordByte (rk[4 * rnd.val + c.val]'(by omega)) r.val := by
  simp [addRoundKey]

@[simp] theorem entry_subBytes (s : Block) (r c : Fin 4) : entry (subBytes s) r c = sbox (entry s r c) := by
  simp [subBytes]

@[simp] theorem entry_invSubBytes (s : Block) (r c : Fin 4) : entry (invSubBytes s) r c = invSbox (entry s r c) := by
  simp [invSubBytes]

@[simp] theorem entry_shiftRows (s : Block) (r c : Fin 4) : entry (shiftRows s) r c = entry s r (c + r) := by
  simp [shiftRows]

@[simp] theorem entry_invShiftRows (s : Block) (r c : Fin 4) : entry (invShiftRows s) r c = entry s r (c - r) := by
  simp [invShiftRows]

end Sys2Proof.Machine
end

