-- ==== Sys2Proof/Tests/Slice0.lean ====
section
/-! SUPPORT. Small tests of the model, whose expected values are the words of R90-R92 and the vectors of
spec/95_test_vectors.md, and for each obligation with hypotheses a witness: a concrete case that meets them. -/

namespace Sys2Proof.Tests

open Sys2Proof.Machine Sys2Proof.Statements

/-! ## Helpers -/

/-- A number written in hexadecimal as k registers, the first one most significant. -/
def words (k n : Nat) : Vector Word k := Vector.ofFn fun j => BitVec.ofNat 32 (n >>> (32 * (k - 1 - j.val)))

/-- The reset state with its block changed. -/
def withDev (f : Device → Device) : State := { State.reset with dev := f Device.reset }

/-- What a test reads from an outcome's block; the default where there is no next state. -/
def after {α : Type} (o : Host.Outcome State Fault Refusal) (f : Device → α) : Option α :=
  match o with
  | .next s => some (f s.dev)
  | .fault _ => none
  | .refused _ => none

/-- The key 000102…1f of the vectors. -/
def countingKey : Vector Word 8 := words 8 0x000102030405060708090a0b0c0d0e0f101112131415161718191a1b1c1d1e1f

/-- The key 603deb10…0914dff4 of the vectors. -/
def a3Key : Vector Word 8 := words 8 0x603deb1015ca71be2b73aef0857d77811f352c073b6108d72d9810a30914dff4

/-- The block 000102…0f of the vectors. -/
def countingBlock : Vector Word 4 := words 4 0x000102030405060708090a0b0c0d0e0f

/-- A block that says it has a schedule, and no session. -/
def keyed (d : Device) : Device := { d with keyvalid := true }

/-- A session of the given kind. -/
def session (m : Mode) (b : BitVec 29) (t : BitVec 4) (d : Device) : Device :=
  { d with keyvalid := true, mode := m, blkrem := b, tail := t }

/-- A command v is pending. -/
def busyWith (v : Word) : State := withDev fun d => d.accept v

/-! ## Decoding: the words of R90-R92, every row (spec/95 §2.6 for the illegal ones) -/

theorem test_decode_nop : decode 0x00000000#32 = .ok .nop := by decide
theorem test_decode_clear : decode 0x00000001#32 = .ok .clear := by decide
theorem test_decode_shaInit : decode 0x00000010#32 = .ok .shaInit := by decide
theorem test_decode_shaBlock : decode 0x00000011#32 = .ok .shaBlock := by decide
theorem test_decode_shaFinal : decode 0x00000312#32 = .ok (.shaFinal 3) ∧ decode 0x00003f12#32 = .ok (.shaFinal 63) := by
  decide
theorem test_decode_keyExpand :
    decode 0x00000020#32 = .ok (.keyExpand .key) ∧ decode 0x00000120#32 = .ok (.keyExpand .hash) := by decide
theorem test_decode_aes : decode 0x00000021#32 = .ok .aesEnc ∧ decode 0x00000022#32 = .ok .aesDec := by decide
theorem test_decode_pad : decode 0x00000530#32 = .ok (.pad 5) ∧ decode 0x00000f30#32 = .ok (.pad 15) := by decide
theorem test_decode_unpad : decode 0x00000031#32 = .ok .unpad := by decide
theorem test_decode_cbcEncStart :
    decode 0x00000040#32 = .ok (.cbcEncStart .rng) ∧ decode 0x00000140#32 = .ok (.cbcEncStart .iv) := by decide
theorem test_decode_cbcBlocks :
    decode 0x00000041#32 = .ok .cbcEncBlock ∧ decode 0x00000042#32 = .ok .cbcDecStart ∧
    decode 0x00000043#32 = .ok .cbcDecBlock ∧ decode 0x00000044#32 = .ok .cbcAbort := by decide

/-- The illegal words of spec/95 §2.6. -/
theorem test_decode_illegal :
    [0x00000002#32, 0x0000000f#32, 0x00000013#32, 0x00000023#32, 0x00000032#32, 0x00000045#32, 0x000000ff#32,
           0x00000100#32, 0x00010000#32, 0x80000021#32, 0x00000121#32, 0x00004012#32, 0x00008012#32, 0x00001030#32,
           0x00008030#32, 0x00000220#32, 0x00000240#32, 0x00000144#32, 0x00200031#32].Forall
      fun v => (decode v).toOption = none := by decide

theorem test_decodeTableWord : decodeTableWord 32 0x00000f30 = some (.pad 15) ∧ decodeTableWord 32 0x121 = none := by
  decide

/-! ## Well-formedness: the ill-formed terms -/

theorem test_wellFormed_shaFinal : (Instr.shaFinal 63).wellFormed = true ∧ (Instr.shaFinal 64).wellFormed = false := by
  decide
theorem test_wellFormed_pad : (Instr.pad 15).wellFormed = true ∧ (Instr.pad 16).wellFormed = false := by decide

/-! ## Control commands (spec/95 §2.6) -/

theorem test_nop_status : after (step (State.reset.withFetchWord 32 0)) statusWord = some 0x00000002#32 := by decide

/-- Step 11 of the sequence of §2.6. -/
theorem test_clear_status :
    after (exec .clear (withDev fun d => { keyed d with ie := true, wob := true, len := 5#32 }))
      (fun d => (statusWord d, ctrlWord d, d.len)) = some (0x00000042#32, 1#32, 0#32) := by decide

theorem test_illegal_status : after (step (State.reset.withFetchWord 32 0x121)) statusWord = some 0x00000402#32 := by
  decide

/-! ## SHA-256 (spec/95 §2.1) -/

/-- S1. -/
theorem test_shaInit : after (exec .shaInit State.reset) (fun d => (d.hash, statusWord d)) =
    some (words 8 0x6a09e667bb67ae853c6ef372a54ff53a510e527f9b05688c1f83d9ab5be0cd19, 0x0000000a#32) := by decide

/-- S6. -/
theorem test_shaBlock_seq : after (exec .shaBlock State.reset) statusWord = some 0x00000502#32 := by decide

/-- S2. -/
theorem test_shaBlock : after (exec .shaBlock (withDev fun d => { d with
      shaact := true, hash := sha256Init
      msg := words 16 0x000102030405060708090a0b0c0d0e0f101112131415161718191a1b1c1d1e1f202122232425262728292a2b2c2d2e2f303132333435363738393a3b3c3d3e3f }))
    (fun d => (d.hash, d.shalen)) =
    some (words 8 0xfc99a2df88f42a7a7bb9d18033cdc6a20256755f9d5b9a5044a9cc315abe84a7, 0x200#64) := by decide +kernel

/-- S9, E2: bytes 3..63 of MSG are ignored. -/
theorem test_shaFinal_abc : after (exec (.shaFinal 3) (withDev fun d => { d with
      shaact := true, hash := sha256Init, msg := #v[0x616263ff#32, 0x41424344#32] ++ Vector.replicate 14 0x45#32 }))
    (fun d => (d.hash, d.shalen, statusWord d)) =
    some (words 8 0xba7816bf8f01cfea414140de5dae2223b00361a396177a9cb410ff61f20015ad, 0x18#64, 2#32) := by decide +kernel

/-- The 56-byte message 00 01 … 37: two compressions. -/
theorem test_shaFinal_56 : after (exec (.shaFinal 56) (withDev fun d => { d with
      shaact := true, hash := sha256Init
      msg := words 16 0x000102030405060708090a0b0c0d0e0f101112131415161718191a1b1c1d1e1f202122232425262728292a2b2c2d2e2f303132333435363738393a3b3c3d3e3f }))
    (fun d => (d.hash, d.shalen)) =
    some (words 8 0xda2ae4d6b36748f2a318f23e7ab1dfdf45acdc9d049bd80e59de82a60895f562, 0x1c0#64) := by decide +kernel

/-! ## Key expansion and AES (spec/95 §2.2, §2.3) -/

/-- The A.3 schedule: RK8-RK11 and RK56-RK59. -/
theorem test_keyExpand_key :
    after (exec (.keyExpand .key) (withDev fun d => { d with key := a3Key }))
      (fun d => ((d.rk.toList.drop 8).take 4, d.rk.toList.drop 56, statusWord d)) =
    some ([0x9ba35411#32, 0x8e6925af#32, 0xa51a8b5f#32, 0x2067fcde#32],
          [0xfe4890d1#32, 0xe6188d0b#32, 0x046df344#32, 0x706c631e#32], 0x00000006#32) := by decide +kernel

/-- H(0) as the key. -/
theorem test_keyExpand_hash :
    after (exec (.keyExpand .hash) (withDev fun d => { d with hash := sha256Init })) (fun d => d.rk.toList.drop 56) =
    some [0x59b6cb75#32, 0xd2473c87#32, 0xbe32a848#32, 0x12b88e9c#32] := by decide +kernel

theorem test_gmul : gmul 0x57#8 0x83#8 = 0xc1#8 ∧ gmul 0x57#8 0x13#8 = 0xfe#8 ∧ xtime 0x57#8 = 0xae#8 := by decide

theorem test_shiftRows :
    (blockWords (shiftRows (bytesOf countingBlock)), blockWords (invShiftRows (bytesOf countingBlock))) =
    (words 4 0x00050a0f04090e03080d02070c01060b, words 4 0x000d0a0704010e0b0805020f0c090603) := by decide

theorem test_mixColumns :
    blockWords (mixColumns (bytesOf (words 4 0xdb135345f20a225cd4d4d4d52d26314c))) =
      words 4 0x8e4da1bc9fdc589dd5d5d7d64d7ebdf8 ∧
    blockWords (invMixColumns (bytesOf (words 4 0x8e4da1bc9fdc589dd5d5d7d64d7ebdf8))) =
      words 4 0xdb135345f20a225cd4d4d4d52d26314c := by decide +kernel

/-- E3: FIPS-197 C.3. -/
theorem test_aesEnc : after (exec .aesEnc (withDev fun d => { d with
      keyvalid := true, rk := keyExpansion (bytesOf countingKey), din := words 4 0x00112233445566778899aabbccddeeff }))
    (fun d => d.dout) = some (words 4 0x8ea2b7ca516745bfeafc49904b496089) := by decide +kernel

/-- A1. -/
theorem test_aesEnc_nokey : after (exec .aesEnc State.reset) statusWord = some 0x00000602#32 := by decide

theorem test_aesDec : after (exec .aesDec (withDev fun d => { d with
      keyvalid := true, rk := keyExpansion (bytesOf countingKey), din := words 4 0x8ea2b7ca516745bfeafc49904b496089 }))
    (fun d => d.dout) = some (words 4 0x00112233445566778899aabbccddeeff) := by decide +kernel

/-! ## Padding (spec/95 §2.4) -/

theorem test_pad :
    after (exec (.pad 5) (withDev fun d => { d with din := words 4 0xa0a1a2a3a4a5a6a7a8a9aaabacadaeaf })) (fun d => d.dout) =
      some (words 4 0xa0a1a2a3a40b0b0b0b0b0b0b0b0b0b0b) ∧
    after (exec (.pad 0) (withDev fun d => { d with din := words 4 0xa0a1a2a3a4a5a6a7a8a9aaabacadaeaf })) (fun d => d.dout) =
      some (words 4 0x10101010101010101010101010101010) := by decide +kernel

theorem test_unpad_ok :
    after (exec .unpad (withDev fun d => { d with din := words 4 0x110f0f0f0f0f0f0f0f0f0f0f0f0f0f0f }))
      (fun d => (d.cnt, d.dout, statusWord d)) =
    some (1#4, words 4 0x110f0f0f0f0f0f0f0f0f0f0f0f0f0f0f, 2#32) := by decide +kernel

theorem test_unpad_badpad : [0xa0a1a2a3a4a5a6a7a8a9aaabacad0302, 0xa0a1a2a3a4a5a6a7a8a9aaabacadae00,
      0xa0a1a2a3a4a5a6a7a8a9aaabacadae11, 0x0f0f0f0f0f0f0f0f0f0f0f0f0f0f0f10].Forall fun n =>
    after (exec .unpad (withDev fun d => { d with din := words 4 n, cnt := 7#4 })) (fun d => (d.cnt, d.dout, statusWord d)) =
      some (0#4, words 4 0, 0x00000302#32) := by decide +kernel

/-! ## CBC (spec/95 §2.5) -/

theorem test_cbcEncStart_iv : [(0x3#32, 1#29, 3#4), (0xf#32, 1#29, 15#4), (0x10#32, 2#29, 0#4),
      (0xffffffff#32, 0x10000000#29, 15#4)].Forall fun p =>
    after (exec (.cbcEncStart .iv) (withDev fun d => { keyed d with len := p.1, iv := countingBlock }))
      (fun d => (d.blkrem, d.tail, d.chain, statusWord d)) = some (p.2.1, p.2.2, countingBlock, 0x00000016#32) := by
  decide +kernel

/-- B5: NOKEY before the entropy request. -/
theorem test_cbcEncStart_nokey : after (exec (.cbcEncStart .rng) State.reset) statusWord = some 0x00000602#32 := by decide

/-- The "abc" message of §2.5, its one block. -/
theorem test_cbcEncBlock_last : after (exec .cbcEncBlock (withDev fun d => { session .enc 1#29 3#4 d with
      rk := keyExpansion (bytesOf countingKey), chain := countingBlock, din := words 4 0x616263aa000000000000000000000000 }))
    (fun d => (d.dout, d.chain, d.blkrem, statusWord d)) =
    some (words 4 0xe98b50daffee0c8e527bba7859e83713, words 4 0xe98b50daffee0c8e527bba7859e83713, 0#29, 0x00000006#32) := by
  decide +kernel

/-- The session counts down without evaluating the cipher. -/
theorem test_cbcEncBlock_counts : after (exec .cbcEncBlock (withDev (session .enc 3#29 5#4)))
    (fun d => (d.blkrem, d.tail, statusWord d)) = some (2#29, 5#4, 0x00000016#32) := by decide

theorem test_cbcDecStart : [(0x1f#32, 0#29, 0x00000206#32), (0x20#32, 1#29, 0x00000026#32),
      (0x21#32, 0#29, 0x00000206#32), (0x30#32, 2#29, 0x00000026#32), (0xfffffff0#32, 0xffffffe#29, 0x00000026#32)].Forall fun p =>
    after (exec .cbcDecStart (withDev fun d => { keyed d with len := p.1 })) (fun d => (d.blkrem, statusWord d)) =
      some p.2 := by decide +kernel

/-- Tamper row "0, 01" of §2.5: the padding still holds and the plaintext differs. -/
theorem test_cbcDecBlock_last : after (exec .cbcDecBlock (withDev fun d => { session .dec 1#29 0#4 d with
      rk := keyExpansion (bytesOf countingKey), chain := words 4 0x010102030405060708090a0b0c0d0e0f
      din := words 4 0xe98b50daffee0c8e527bba7859e83713 }))
    (fun d => (d.dout, d.cnt, d.chain, statusWord d)) =
    some (words 4 0x6062630d0d0d0d0d0d0d0d0d0d0d0d0d, 3#4, words 4 0xe98b50daffee0c8e527bba7859e83713, 0x00000006#32) := by
  decide +kernel

theorem test_cbcDecBlock_seq : after (exec .cbcDecBlock (withDev (session .enc 1#29 0#4))) statusWord =
    some 0x00000516#32 := by decide

/-- B6, B7. -/
theorem test_cbcAbort : after (exec .cbcAbort (withDev fun d => { session .enc 2#29 3#4 d with chain := countingBlock }))
    (fun d => (d.chain, d.blkrem, d.tail, statusWord d)) = some (words 4 0, 0#29, 0#4, 0x00000006#32) := by decide

/-! ## The bus (spec/95 §2.6) -/

theorem test_bus_errors : [0x01C#12, 0x0E8#12, 0x1F0#12, 0x002#12, 0xFFC#12].Forall fun off =>
    busRead off 32 State.reset = (.error, State.reset) ∧ busWrite off 32 1#32 State.reset = (.error, State.reset) := by
  decide

theorem test_bus_size : busRead 0x004#12 16 State.reset = (.error, State.reset) := by decide

theorem test_bus_read : (busRead 0x004#12 32 (withDev keyed)).1 = .data 4#32 ∧
    (busRead 0x008#12 32 (withDev keyed)).1 = .data 0#32 := by decide

theorem test_bus_rk59 : (busRead 0x1EC#12 32 (withDev fun d => { d with rk := d.rk.set 59 0x6d68de36#32 })).1 =
    .data 0x6d68de36#32 := by decide

theorem test_bus_ctrl : ((busWrite 0x000#12 32 0xFFFFFFFF#32 State.reset).2).dev.ie = true := by decide

/-- Steps 4 to 6 of the sequence of §2.6. -/
theorem test_bus_discard : [(0x00C#12, 5#32), (0x008#12, 1#32), (0x004#12, 0x42#32)].Forall fun p =>
    (busWrite p.1 32 p.2 (busyWith 0x10#32)).1 = .okay ∧
    statusWord (busWrite p.1 32 p.2 (busyWith 0x10#32)).2.dev = 0x00000041#32 := by decide +kernel

theorem test_bus_status_clears : statusWord (busWrite 0x004#12 32 0xFFFFFFFF#32
    (withDev fun d => { keyed d with done := true, wob := true, err := .seq })).2.dev = 0x00000504#32 := by decide

theorem test_bus_msg : ((busWrite 0x0BC#12 32 7#32 State.reset).2).dev.msg[15] = 7#32 := by decide

/-! ## Steps -/

theorem test_step_write : after (step { State.reset with script := [.write 0x020#12 32 9#32, .reset .nothing] }) (fun d => d.key[0]) =
    some 9#32 := by decide

theorem test_step_reset : after (step { busyWith 0x10#32 with script := [.reset .nothing], lat := 1 }) id =
    some Device.reset := by decide

/-- A pending command with spent latency completes before the host's next action. -/
theorem test_step_completion_first :
    after (step { busyWith 0x10#32 with script := [.reset .nothing] }) (fun d => d.shaact) = some true := by decide

/-- R253: a reset that comes with the completion wins over it. -/
theorem test_step_reset_with_completion :
    after (step { busyWith 0x10#32 with script := [.reset .completion] }) id = some Device.reset := by decide

/-- R253: a reset that comes with a write of CTRL or CMD wins over it. -/
theorem test_step_reset_with_write : [(0x000#12, 1#32), (0x008#12, 0x10#32)].Forall fun p =>
    (performAction (.reset (.write p.1 32 p.2)) State.reset).dev = Device.reset := by
  simp

/-- `wait` is repeated while BUSY = 1. -/
theorem test_poll : (performAction .poll (busyWith 0x10#32)).script = [.poll] ∧
    (performAction .poll State.reset).script = [] := by decide

theorem test_check : (performAction (.check 0x004#12 0xF01#32 0#32) State.reset).failed = 0 ∧
    (performAction (.check 0x004#12 0xF01#32 1#32) State.reset).failed = 1 := by decide

theorem test_load : (Stmt.load .din [0x61#8, 0x62#8, 0x63#8]).actions =
    [.write 0x040#12 32 0x61626300#32, .write 0x044#12 32 0#32, .write 0x048#12 32 0#32, .write 0x04C#12 32 0#32] := by
  decide

theorem test_cmd : (Stmt.cmd (.shaFinal 3)).actions = [.write 0x008#12 32 0x00000312#32, .poll] := by decide

/-! ## Witnesses: each obligation's hypotheses are met by a concrete case, clause by clause -/

theorem witness_StepRunsTheDecodedCommand :
    (∃ (s : State) (v : Word) (i : Instr), Due s ∧ s.script ≠ [] ∧ s.dev.pending = some v ∧ decode v = .ok i) ∧
    ∃ (s : State) (v : Word) (i : Instr), Due s ∧ s.lat ≠ 0 ∧ s.dev.pending = some v ∧ decode v = .ok i :=
  ⟨⟨{ busyWith 0x3f12#32 with script := [.poll] }, 0x3f12#32, .shaFinal 63, ⟨rfl, .inr ⟨rfl, by simp⟩⟩, by decide⟩,
   ⟨{ busyWith 0x140#32 with lat := 5 }, 0x140#32, .cbcEncStart .iv, ⟨rfl, .inl rfl⟩, by decide⟩⟩

theorem witness_IllegalWordCompletesWithIllcmd :
    ∃ (s : State) (v : Word) (e : IllegalWord), Due s ∧ s.dev.pending = some v ∧ decode v = .error e :=
  ⟨busyWith 0x45#32, 0x45#32, .unassignedOp, ⟨rfl, .inl rfl⟩, by decide⟩

theorem witness_HostActsOrBlockRests :
    (∃ (s : State) (a : Action) (rest : List Action), s.script = a :: rest ∧ s.dev.busy = false) ∧
    (∃ (s : State) (a : Action) (rest : List Action), s.script = a :: rest ∧ s.dev.busy = true ∧ 0 < s.lat) ∧
    (∃ (s : State) (a : Action) (rest : List Action), s.script = a :: rest ∧ s.dev.busy = true ∧ s.lat = 0 ∧
      a = .reset .completion) ∧
    ∃ s : State, s.script = [] ∧ s.dev.busy = false :=
  ⟨⟨{ State.reset with script := [.poll] }, .poll, [], by decide⟩,
   ⟨{ busyWith 0x10#32 with script := [.reset .nothing], lat := 1 }, .reset .nothing, [], by decide⟩,
   ⟨{ busyWith 0x10#32 with script := [.reset .completion] }, .reset .completion, [], by decide⟩,
   ⟨State.reset, by decide⟩⟩

theorem witness_ShaInitStartsAMessage : ∃ s t : State, exec .shaInit s = .next t := ⟨State.reset, _, rfl⟩

theorem witness_ShaBlockAbsorbsOneBlock :
    (∃ s : State, s.dev.shaact = false) ∧ ∃ s : State, s.dev.shaact = true :=
  ⟨⟨State.reset, rfl⟩, ⟨withDev fun d => { d with shaact := true }, rfl⟩⟩

theorem witness_ShaFinalPadsAndEndsTheMessage :
    ∀ n ∈ [0, 55, 56, 63], n < 64 ∧ (∃ s : State, s.dev.shaact = false) ∧ ∃ s : State, s.dev.shaact = true :=
  fun n hn => ⟨by revert n; decide, witness_ShaBlockAbsorbsOneBlock.1, witness_ShaBlockAbsorbsOneBlock.2⟩

theorem witness_KeyExpandBuildsTheSchedule :
    (∃ s : State, s.dev.mode ≠ .idle) ∧ ∃ s : State, s.dev.mode = .idle :=
  ⟨⟨withDev (session .dec 1#29 0#4), by decide⟩, ⟨State.reset, rfl⟩⟩

theorem witness_AesEncEncryptsDin : (∃ s : State, s.dev.keyvalid = false) ∧ ∃ s : State, s.dev.keyvalid = true :=
  ⟨⟨State.reset, rfl⟩, ⟨withDev keyed, rfl⟩⟩

theorem witness_AesDecDecryptsDin : (∃ s : State, s.dev.keyvalid = false) ∧ ∃ s : State, s.dev.keyvalid = true :=
  witness_AesEncEncryptsDin

theorem witness_PadWritesTheDataThenThePadBytes : ∀ n ∈ [0, 1, 15], n < 16 := by decide

/-- The pad values 1 and 16 hold, 0 and 17 do not. -/
theorem witness_UnpadChecksThePaddingOfDin :
    (∃ s : State, PaddingHolds (bytesOf s.dev.din) ∧ ((bytesOf (k := 4) s.dev.din)[15]).toNat = 1) ∧
    (∃ s : State, PaddingHolds (bytesOf s.dev.din) ∧ ((bytesOf (k := 4) s.dev.din)[15]).toNat = 16) ∧
    (∃ s : State, ¬ PaddingHolds (bytesOf s.dev.din) ∧ ((bytesOf (k := 4) s.dev.din)[15]).toNat = 0) ∧
    ∃ s : State, ¬ PaddingHolds (bytesOf s.dev.din) ∧ ((bytesOf (k := 4) s.dev.din)[15]).toNat = 17 := by
  refine ⟨⟨withDev fun d => { d with din := words 4 1 }, ?_⟩,
    ⟨withDev fun d => { d with din := words 4 0x10101010101010101010101010101010 }, ?_⟩, ⟨State.reset, ?_⟩,
    ⟨withDev fun d => { d with din := words 4 0x11111111111111111111111111111111 }, ?_⟩⟩ <;>
  · unfold PaddingHolds
    decide +kernel

theorem witness_CbcEncStartOpensASession :
    (∃ s : State, s.dev.mode ≠ .idle) ∧ (∃ s : State, s.dev.mode = .idle ∧ s.dev.keyvalid = false) ∧
    ∃ s : State, s.dev.mode = .idle ∧ s.dev.keyvalid = true :=
  ⟨⟨withDev (session .enc 1#29 0#4), by decide⟩, ⟨State.reset, by decide⟩, ⟨withDev keyed, by decide⟩⟩

theorem witness_CbcEncBlockChainsOneWindow :
    (∃ s : State, s.dev.mode ≠ .enc) ∧ (∃ s : State, s.dev.mode = .enc ∧ s.dev.blkrem.toNat = 2) ∧
    ∃ s : State, s.dev.mode = .enc ∧ s.dev.blkrem.toNat = 1 ∧ s.dev.tail.toNat = 15 :=
  ⟨⟨State.reset, by decide⟩, ⟨withDev (session .enc 2#29 0#4), by decide⟩, ⟨withDev (session .enc 1#29 15#4), by decide⟩⟩

theorem witness_CbcDecStartChecksTheLength :
    (∃ s : State, s.dev.mode ≠ .idle) ∧ (∃ s : State, s.dev.mode = .idle ∧ s.dev.keyvalid = false) ∧
    (∀ n ∈ [0#32, 31#32, 33#32, 0xffffffff#32], ∃ s : State, s.dev.mode = .idle ∧ s.dev.keyvalid = true ∧
      s.dev.len = n ∧ (s.dev.len.toNat < 32 ∨ s.dev.len.toNat % 16 ≠ 0)) ∧
    ∀ n ∈ [32#32, 48#32, 0xfffffff0#32], ∃ s : State, s.dev.mode = .idle ∧ s.dev.keyvalid = true ∧
      s.dev.len = n ∧ 32 ≤ s.dev.len.toNat ∧ s.dev.len.toNat % 16 = 0 := by
  refine ⟨⟨withDev (session .enc 1#29 0#4), by decide⟩, ⟨State.reset, by decide⟩, fun n hn => ?_, fun n hn => ?_⟩ <;>
  · refine ⟨withDev fun d => { keyed d with len := n }, rfl, rfl, rfl, ?_⟩
    simp only [List.mem_cons, List.not_mem_nil, or_false] at hn
    rcases hn with rfl | rfl | rfl | rfl <;> decide

/-- CHAIN can be chosen so that the last block decrypts to any block p. -/
theorem witness_chain (p : Block) : ∃ s : State, s.dev.mode = .dec ∧ s.dev.blkrem.toNat = 1 ∧
    xorBlock (invCipher (bytesOf s.dev.din) s.dev.rk) (bytesOf s.dev.chain) = p := by
  refine ⟨withDev fun d => { session .dec 1#29 0#4 d with
    chain := wordsOf (k := 4) (xorBlock (invCipher (bytesOf d.din) d.rk) p) }, rfl, rfl, ?_⟩
  show xorBlock _ (bytesOf (wordsOf (k := 4) _)) = p
  rw [bytesOf_wordsOf]
  exact xorBlock_cancel_left _ p

theorem witness_CbcDecBlockChainsOneBlock :
    (∃ s : State, s.dev.mode ≠ .dec) ∧
    (∃ s : State, s.dev.mode = .dec ∧ s.dev.blkrem.toNat = 2) ∧
    (∃ (s : State) (x : Block), s.dev.mode = .dec ∧ s.dev.blkrem.toNat = 1 ∧
      x = xorBlock (invCipher (bytesOf s.dev.din) s.dev.rk) (bytesOf s.dev.chain) ∧ PaddingHolds x) ∧
    ∃ (s : State) (x : Block), s.dev.mode = .dec ∧ s.dev.blkrem.toNat = 1 ∧
      x = xorBlock (invCipher (bytesOf s.dev.din) s.dev.rk) (bytesOf s.dev.chain) ∧ ¬ PaddingHolds x := by
  obtain ⟨s, h1, h2, h3⟩ := witness_chain (Vector.replicate 16 16#8)
  obtain ⟨t, k1, k2, k3⟩ := witness_chain (Vector.replicate 16 0#8)
  refine ⟨⟨State.reset, by decide⟩, ⟨withDev (session .dec 2#29 0#4), by decide⟩, ⟨s, _, h1, h2, h3.symm, ?_⟩,
    ⟨t, _, k1, k2, k3.symm, ?_⟩⟩ <;>
  · unfold PaddingHolds
    decide +kernel

/-- Each code but RNGFAIL, whose case rests on the entropy port, and OK. -/
theorem witness_ErrorCodeIsTheFirstFailingCheck :
    (∃ (v : Word) (e : IllegalWord), decode v = .error e) ∧
    (∃ (i : Instr) (s t : State), exec i s = .next t ∧ t.dev.err = .seq) ∧
    (∃ (i : Instr) (s t : State), exec i s = .next t ∧ t.dev.err = .nokey) ∧
    (∃ (i : Instr) (s t : State), exec i s = .next t ∧ t.dev.err = .badlen) ∧
    (∃ (i : Instr) (s t : State), exec i s = .next t ∧ t.dev.err = .badpad) ∧
    ∃ (i : Instr) (s t : State), exec i s = .next t ∧ t.dev.err = .ok :=
  ⟨⟨0x141#32, .unusedArgBits, by decide⟩, ⟨.shaBlock, State.reset, _, rfl, rfl⟩, ⟨.aesDec, State.reset, _, rfl, rfl⟩,
   ⟨.cbcDecStart, withDev keyed, _, rfl, rfl⟩, ⟨.unpad, State.reset, _, rfl, rfl⟩, ⟨.nop, State.reset, _, rfl, rfl⟩⟩

theorem witness_entropy_asked :
    (∃ (i : Instr) (s t : State), exec i s = .next t ∧ i ≠ .cbcEncStart .rng) ∧
    ∃ s t : State, exec (.cbcEncStart .rng) s = .next t ∧ s.dev.mode = .idle ∧ s.dev.keyvalid = true := by
  refine ⟨⟨.nop, State.reset, _, rfl, by decide⟩, ?_⟩
  cases h : Config.entropy 0 with
  | none => exact ⟨withDev keyed, _, by
      simp [exec, execCbcEncStart, withDev, keyed, Device.reset, requestEntropy, State.reset, h, raise, finish]
      rfl, rfl, rfl⟩
  | some b => exact ⟨withDev keyed, _, by
      simp [exec, execCbcEncStart, withDev, keyed, Device.reset, requestEntropy, State.reset, h, finish]
      rfl, rfl, rfl⟩

theorem witness_FailedCommandLeavesTheBlock :
    (∃ (v : Word) (s t : State), execute v s = .next t ∧ t.dev.err ≠ .ok ∧ t.dev.err ≠ .badpad) ∧
    (∃ (v : Word) (s t : State), execute v s = .next t ∧ t.dev.err = .illcmd) ∧
    ∃ (v : Word) (s t : State), execute v s = .next t ∧ t.dev.err = .badpad :=
  ⟨⟨0x11#32, State.reset, _, rfl, by decide⟩, ⟨0x45#32, State.reset, _, rfl, rfl⟩, ⟨0x31#32, State.reset, _, rfl, rfl⟩⟩

theorem witness_CommandsWriteOnlyWhatTheTableLists :
    (∃ (i : Instr) (s t : State) (r : Reg) (last refused : Bool), exec i s = .next t ∧
      last = decide (s.dev.blkrem.toNat = 1) ∧ refused = decide (t.dev.err ≠ .ok ∧ t.dev.err ≠ .badpad) ∧
      r ≠ .status ∧ mayWrite last i r = false ∧ mayWriteKeyvalid i = false ∧ mayWriteShaact i = false ∧
      mayWriteMode last i = false) ∧
    ∃ (i : Instr) (s t : State) (r : Reg) (last refused : Bool), exec i s = .next t ∧
      last = decide (s.dev.blkrem.toNat = 1) ∧ refused = decide (t.dev.err ≠ .ok ∧ t.dev.err ≠ .badpad) ∧
      r ≠ .status ∧ mayWrite last i r = true ∧ refused = true :=
  ⟨⟨.cbcEncBlock, withDev (session .enc 2#29 1#4), _, .tail, false, false, rfl, by decide, rfl, by decide⟩,
   ⟨.aesEnc, State.reset, _, .dout 0, false, true, rfl, by decide, by decide, by decide⟩⟩

theorem witness_SessionFollowsItsStateMachine :
    (∃ (s t : State), exec .cbcDecStart s = .next t ∧ t.dev.err = .ok) ∧
    (∃ (s t : State), exec (.cbcEncStart .iv) s = .next t ∧ t.dev.err = .ok) ∧
    ∃ (s t : State), exec .cbcEncBlock s = .next t ∧ s.dev.mode = .enc ∧ s.dev.blkrem.toNat = 1 :=
  ⟨⟨withDev fun d => { keyed d with len := 32#32 }, _, rfl, rfl⟩, ⟨withDev keyed, _, rfl, rfl⟩,
   ⟨withDev (session .enc 1#29 0#4), _, rfl, rfl, rfl⟩⟩

theorem witness_InterleavedCommandsDoNotDisturbTheSession :
    ∃ (j : Instr) (s t u : State), leavesSession j = true ∧ exec j s = .next t ∧ s.dev.mode = .enc ∧
      exec .cbcEncBlock s = .next u ∧ u.dev.err ≠ .seq :=
  ⟨.aesEnc, withDev (session .enc 2#29 0#4), _, _, rfl, rfl, rfl, rfl, by decide⟩

theorem witness_OnlyKeyExpandClearAndResetChangeRk :
    (∃ s t : State, step s = .next t ∧ t.dev.rk ≠ s.dev.rk ∧ nextTurn s = .completion) ∧
    ∃ s t : State, step s = .next t ∧ t.dev.rk ≠ s.dev.rk ∧ nextTurn s = .host (.reset .nothing) [] :=
  ⟨⟨withDev fun d => { d.accept 1#32 with rk := Vector.replicate 60 1#32 }, _, rfl, by decide, by decide⟩,
   ⟨{ (withDev fun d => { d with rk := Vector.replicate 60 1#32 }) with script := [.reset .nothing] }, _, rfl,
     by decide, by decide⟩⟩

/-- A busy state with an open encryption session meets the invariants. -/
theorem witness_inv : ∃ s : State, Inv s ∧ s.dev.busy = true ∧ s.dev.mode = .enc := by
  refine ⟨withDev fun d => { session .enc 1#29 0#4 d with
    rk := keyExpansion (Vector.replicate 32 0#8), busy := true, pending := some 0#32 }, ?_, rfl, rfl⟩
  refine ⟨by decide, by decide, by decide, rfl, ⟨fun _ => ⟨_, rfl⟩, fun h => ?_⟩, fun _ => rfl⟩
  exact absurd h (by decide)

theorem witness_StepKeepsTheInvariants : ∃ s : State, Inv s :=
  let ⟨s, h, _⟩ := witness_inv
  ⟨s, h⟩

/-- From a reachable state with a pending command that the host waits for, a run reaches its completion, with the
rest of the script left. -/
theorem reach_completion {k : Option (Vector Byte 32)} {rest : List Action} {d : Device} (hb : d.busy = true) :
    ∀ (n : Nat) (s : State), ReachableWithKey k s → s.dev = d → s.lat = n → s.script = .poll :: rest →
      ∃ u, ReachableWithKey k u ∧ u.dev = d ∧ u.lat = 0 ∧ u.script = .poll :: rest := by
  intro n
  induction n with
  | zero => exact fun s hr hd hl hs => ⟨s, hr, hd, hl, hs⟩
  | succ n ih =>
    intro s hr hd hl hs
    have hb' : s.dev.busy = true := by rw [hd, hb]
    have ht : nextTurn s = .host .poll rest := by simp [nextTurn, hl, hs]
    have hd' : (hostTurn .poll rest s).dev = d := by simpa [hostTurn] using hd
    have he : hostTurn .poll rest s = respond (.data (statusWord s.dev)) { s with script := .poll :: rest, lat := n } := by
      simp [hostTurn, performAction_poll, hb', hl]
    have hn := ReachableWithKey.next hr (step_host ht)
    rw [keyAfter_host ht] at hn
    exact ih (hostTurn .poll rest s) hn hd' (by simp [he]) (by simp [he])

/-- A run from reset with a host script reaches an open session, whatever the latencies are, and the last key read is
the one in KEY. -/
theorem witness_ReachableStatesMeetTheInvariants :
    ∃ (k : Vector Byte 32) (s : State), ReachableWithKey (some k) s ∧ s.dev.mode = .enc ∧ s.dev.keyvalid = true := by
  have h0 : ReachableWithKey none
      { State.reset with script := [issueAction (.keyExpand .key), .poll, issueAction (.cbcEncStart .iv)] } := .start rfl
  have h1 := ReachableWithKey.next h0 rfl
  rw [keyAfter_host rfl] at h1
  obtain ⟨u, hu, hd, hl, hs⟩ := reach_completion rfl _ _ h1 rfl rfl rfl
  have hb : u.dev = Device.reset.accept 0x20#32 := hd
  have hdec : decode 0x20#32 = .ok (.keyExpand .key) := by decide
  have ht : nextTurn u = .completion := by simp [nextTurn, hb, hl, hs, Action.takesCompletion]
  have hp : u.dev.pending = some 0x20#32 := by rw [hb]; rfl
  have hm : u.dev.mode = .idle := by rw [hb]; rfl
  have h2 := ReachableWithKey.next hu (t := { u with dev := (Device.reset.accept 0x20#32).complete .ok |> fun d =>
      { d with rk := keyExpansion (keyBytes .key Device.reset), keyvalid := true } })
    (by
      rw [step_completion ht hp]
      simp only [execute, hdec, exec, execKeyExpand, finish, hb, ne_eq]
      rfl)
  rw [keyAfter_completion ht hp hdec, hm] at h2
  have h3 := ReachableWithKey.next h2 (by simp only [step, nextTurn, hs, Device.complete, Bool.false_and]; rfl)
  rw [keyAfter_host (a := .poll) (rest := [issueAction (.cbcEncStart .iv)])
    (by simp only [nextTurn, hs, Device.complete, Bool.false_and]; rfl), hostTurn, performAction_poll] at h3
  have h4 := ReachableWithKey.next h3 rfl
  rw [keyAfter_host rfl] at h4
  have hc : ∀ s : State, s.dev.busy = true → s.script = [] → nextTurn s = .completion := fun s h k => by
    simp [nextTurn, h, k]
  have h5 := ReachableWithKey.next h4 (by rw [step_completion (hc _ rfl rfl) rfl]; rfl)
  rw [keyAfter_completion (v := 0x140#32) (i := .cbcEncStart .iv) (hc _ rfl rfl) rfl (by decide)] at h5
  exact ⟨_, _, h5, rfl, rfl⟩

theorem witness_DecodeUndoesEncode :
    ∀ i ∈ [Instr.shaFinal 0, .shaFinal 63, .pad 0, .pad 15, .keyExpand .hash, .cbcEncStart .iv, .nop],
      i.wellFormed = true := by decide

theorem witness_EncodeUndoesDecode : ∃ (v : Word) (i : Instr), decode v = .ok i := ⟨0x3f12#32, .shaFinal 63, by decide⟩

theorem witness_AtMostOneRowMatches : ∃ (v : Word) (j : Nat) (hj : j < opcodeMap.length),
    opcodeMap[j].selects v = true := ⟨0x3f12#32, 4, by decide, by decide⟩

theorem witness_IllegalWordsAreTheThreeCases :
    (∃ (v : Word) (e : IllegalWord), decode v = .error e ∧ Unassigned (opOf v)) ∧
    (∃ (v : Word) (e : IllegalWord), decode v = .error e ∧ rsvdOf v ≠ 0) ∧
    ∃ (v : Word) (e : IllegalWord), decode v = .error e ∧ UnusedBitSet (opOf v) (argOf v) := by
  refine ⟨⟨0x45#32, .unassignedOp, by decide, ?_⟩, ⟨0x10000#32, .reservedBits, by decide, by decide⟩,
    ⟨0x4012#32, .unusedArgBits, by decide, ?_⟩⟩ <;>
  simp [Unassigned, UnusedBitSet, opOf, argOf]

theorem witness_EachMappedOffsetNamesOneRegister : ∃ r q : Reg, r.offset = q.offset := ⟨.rk 59, .rk 59, rfl⟩

/-- The edges of the mapped ranges (R63). -/
theorem test_mapped_edges :
    [0x000#12, 0x018#12, 0x020#12, 0x0E4#12, 0x100#12, 0x1EC#12].Forall MappedRange ∧
    [0x01C#12, 0x01A#12, 0x0E8#12, 0x0FC#12, 0x1F0#12, 0xFFC#12, 0x001#12].Forall fun off => ¬ MappedRange off := by
  simp [MappedRange]

theorem witness_BadTransactionsAnswerErrorAndChangeNothing :
    (∃ size : Nat, size ≠ 32) ∧ ∃ off : Offset, ¬ MappedRange off :=
  ⟨⟨16, by decide⟩, ⟨0x0E8#12, by simp [MappedRange]⟩⟩

theorem witness_ReadGivesTheRegisterOrADraw :
    (∃ s : State, s.dev.busy = false) ∧ (∃ r : Reg, resultRegister r = false) ∧
    ∃ (r : Reg) (s : State), s.dev.busy = true ∧ resultRegister r = true :=
  ⟨⟨State.reset, rfl⟩, ⟨.len, rfl⟩, ⟨.iv 0, busyWith 0#32, rfl, rfl⟩⟩

theorem witness_WriteStoresInOneRegister :
    (∃ s : State, s.dev.busy = false) ∧ (∃ r q : Reg, storesValue r = true ∧ q ≠ r) ∧ ∃ r : Reg, readOnly r = true :=
  ⟨⟨State.reset, rfl⟩, ⟨.msg 15, .msg 14, rfl, by decide⟩, ⟨.rk 59, rfl⟩⟩

theorem witness_CmdWriteAcceptsTheWord : (∃ s : State, s.dev.busy = false) ∧ ∃ s : State, s.dev.busy = true :=
  ⟨⟨State.reset, rfl⟩, ⟨busyWith 0x45#32, rfl⟩⟩

theorem witness_BusyWritesAreDiscarded :
    (∃ (s : State) (off : Offset), s.dev.busy = true ∧ MappedRange off) ∧
    (∃ (s : State) (off : Offset), s.dev.busy = true ∧ ¬ MappedRange off) ∧
    ∃ (s : State) (v : Word), s.dev.busy = false ∧ v.getLsbD 6 = true ∧ s.dev.wob = true :=
  ⟨⟨busyWith 0#32, 0x1EC#12, rfl, (by simp [MappedRange])⟩,
   ⟨busyWith 0#32, 0x1F0#12, rfl, (by simp [MappedRange])⟩,
   ⟨withDev fun d => { d with wob := true }, 0x40#32, by decide⟩⟩

theorem witness_WindowAddressesAreItsOffsets : ∃ (addr : Nat) (off : Offset), windowOffset addr = some off :=
  ⟨Config.base, 0#12, by simp [windowOffset]⟩

theorem witness_IrqIsLowWhileBusy : ∃ s : State, Inv s ∧ s.dev.busy = true :=
  let ⟨s, h, hb, _⟩ := witness_inv
  ⟨s, h, hb⟩

theorem witness_ResetAbandonsThePendingCommand : ∃ (s : State) (rest : List Action),
    s.script = .reset .completion :: rest ∧ s.dev.busy = true ∧ s.lat = 0 ∧ s.dev.pending ≠ none :=
  ⟨{ busyWith 0x10#32 with script := [.reset .completion] }, [], by decide⟩

theorem witness_LoadStoresTheBytes : ∃ (bs : List Byte) (s : State), bs.length = 3 ∧ s.dev.busy = false :=
  ⟨[0x61#8, 0x62#8, 0x63#8], State.reset, rfl, rfl⟩

theorem witness_CompletionDoesNotDependOnWhatTheHostDidMeanwhile :
    ∃ (s : State) (acts : List Action), s.dev.busy = true ∧ (∀ c, Action.reset c ∉ acts) ∧ acts ≠ [] :=
  ⟨busyWith 0x10#32, [.write 0x040#12 32 7#32, .read 0x050#12 32], by simp [busyWith, withDev]⟩

theorem witness_AcceptedCommandsComplete : (∃ s : State, s.dev.busy = false) ∧
    ∃ (s : State) (v : Word), s.dev.busy = true ∧ s.dev.pending = some v ∧
      (∀ c, Action.reset c ∉ s.script) ∧ s.lat = 2 ∧ s.script.length = 3 :=
  ⟨⟨State.reset, rfl⟩, { busyWith 0x10#32 with script := [.poll, .poll, .poll], lat := 2 }, 0x10#32, by simp [busyWith, withDev]⟩

theorem witness_MessageScheduleSatisfiesItsRecurrence : ∀ t ∈ [16, 17, 63], 16 ≤ t ∧ t ≤ 63 := by decide

theorem witness_FinalPaddingHasItsShape : ∀ n ∈ [0, 55, 56, 63], (List.replicate n 0xFF#8).length ≤ 63 := by decide

theorem witness_CompressionFollowsItsRounds : ∀ t ∈ [0, 63], t < 64 := by decide

theorem witness_AesRounds : ∀ n ∈ [1, 13], 1 ≤ n ∧ n ≤ 13 := by decide

theorem witness_GmulIsTheFieldProduct : ∃ a : Byte, a ≠ 0x00#8 := ⟨0x53#8, by decide⟩

theorem witness_SboxTablesMatchTheirDefinition : ∃ a b : Byte, gmul a b = 0x01#8 := ⟨0x53#8, 0xca#8, by decide⟩

theorem witness_KeyScheduleSatisfiesItsRecurrence : ∀ i ∈ [8, 12, 13, 59], 8 ≤ i ∧ i ≤ 59 := by decide

theorem witness_PaddedBlocksUnpad : ∀ n ∈ [0, 1, 15], n < 16 ∧ ∃ t : List Byte, t.length = n :=
  fun n hn => ⟨by revert n; decide, ⟨List.replicate n 0#8, List.length_replicate⟩⟩

theorem witness_MessagePaddingWorksOnTheLastBlock : ∃ x : Block, PaddingHolds x :=
  ⟨Vector.replicate 16 16#8, by unfold PaddingHolds; decide⟩

theorem witness_EncryptProtocolIsTheSourcesEncrypt :
    ∃ (p : List Byte) (s : State), p.length = 17 ∧ p.length < 2 ^ 32 ∧ s.dev.keyvalid = true ∧ s.dev.mode = .idle :=
  ⟨List.replicate 17 0#8, withDev keyed, by decide⟩

theorem witness_DecryptProtocolIsTheSourcesDecrypt :
    ∃ (c : List Byte) (s : State), c.length = 48 ∧ c.length < 2 ^ 32 ∧ s.dev.keyvalid = true ∧ s.dev.mode = .idle :=
  ⟨List.replicate 48 0#8, withDev keyed, by decide⟩

theorem witness_DecryptionReturnsThePlaintext :
    ∃ (p : List Byte) (s : State), p.length ≤ 0xFFFFFFDF ∧ s.dev.keyvalid = true ∧ s.dev.mode = .idle :=
  ⟨[], withDev keyed, by decide⟩

theorem witness_TamperedCiphertextNeverGivesThePlaintext :
    ∃ (rk : Vector Word 60) (iv : Block) (p : List Byte) (j : Nat) (b : Byte),
      j < (blocksBytes (sourceEncrypt rk iv p)).length ∧ b ≠ (blocksBytes (sourceEncrypt rk iv p)).getD j 0#8 :=
  ⟨Vector.replicate 60 0#32, Vector.replicate 16 0#8, [], 0, 1#8, by simp [blocksBytes, sourceEncrypt], by
    simp only [blocksBytes, sourceEncrypt, List.flatMap_cons]
    rw [List.getD_append _ _ _ _ (by simp)]
    simp⟩

end Sys2Proof.Tests
end

section
/-! What each command does to the block, said once (R116-R118, R145, R173, R174, R193, R194, R201-R206, R224, R225):
it is refused by a check that comes first, or it makes its rule's writes. -/

namespace Sys2Proof.Machine

/-- The checks of R250 that refuse a command with another code than BADPAD. -/
def Refuses (d : Device) (code : ErrCode) : Instr → Prop
  | .nop | .clear | .shaInit | .pad _ | .unpad | .cbcAbort => False
  | .shaBlock | .shaFinal _ => code = .seq ∧ d.shaact = false
  | .keyExpand _ => code = .seq ∧ d.mode ≠ .idle
  | .aesEnc | .aesDec => code = .nokey ∧ d.keyvalid = false
  | .cbcEncStart src =>
      (code = .seq ∧ d.mode ≠ .idle) ∨ (code = .nokey ∧ d.mode = .idle ∧ d.keyvalid = false) ∨
      (code = .rngfail ∧ d.mode = .idle ∧ d.keyvalid = true ∧ src = .rng)
  | .cbcDecStart =>
      (code = .seq ∧ d.mode ≠ .idle) ∨ (code = .nokey ∧ d.mode = .idle ∧ d.keyvalid = false) ∨
      (code = .badlen ∧ d.mode = .idle ∧ d.keyvalid = true ∧ decLengthOK d.len = false)
  | .cbcEncBlock => code = .seq ∧ d.mode ≠ .enc
  | .cbcDecBlock => code = .seq ∧ d.mode ≠ .dec

/-- What a command leaves of the block before `complete(code)`: `CommandWrites i d code d'` says that the command i, at
the block d, ends with `code` and has made the block d'. One constructor for each way through a command's rule; the
session ends when BLKREM was 1 (R203, R205). -/
inductive CommandWrites : Instr → Device → ErrCode → Device → Prop
  | refused {i d code} (h : Refuses d code i) : CommandWrites i d code d
  | nop {d} : CommandWrites .nop d .ok d
  | clear {d} : CommandWrites .clear d .ok (clearDevice d)
  | shaInit {d} : CommandWrites .shaInit d .ok { d with hash := sha256Init, shalen := 0#64, shaact := true }
  | shaBlock {d} (act : d.shaact = true) : CommandWrites .shaBlock d .ok
      { d with hash := compress d.hash (msgBytes d), shalen := d.shalen + 512#64 }
  | shaFinal {d n} (act : d.shaact = true) : CommandWrites (.shaFinal n) d .ok
      { d with
        hash := (padFinal ((msgBytes d).toList.take n) (d.shalen + BitVec.ofNat 64 (8 * n))).foldl compress d.hash
        shalen := d.shalen + BitVec.ofNat 64 (8 * n), shaact := false }
  | keyExpand {d src} (idle : d.mode = .idle) : CommandWrites (.keyExpand src) d .ok
      { d with rk := keyExpansion (keyBytes src d), keyvalid := true }
  | aesEnc {d} (key : d.keyvalid = true) : CommandWrites .aesEnc d .ok
      { d with dout := blockWords (cipher (dinBytes d) d.rk) }
  | aesDec {d} (key : d.keyvalid = true) : CommandWrites .aesDec d .ok
      { d with dout := blockWords (invCipher (dinBytes d) d.rk) }
  | pad {d n} : CommandWrites (.pad n) d .ok
      { d with dout := blockWords (padBlock ((dinBytes d).toList.take n) n) }
  | unpad {d} (pad : unpadOK (dinBytes d) = true) : CommandWrites .unpad d .ok
      { d with dout := d.din, cnt := unpadCount (dinBytes d) }
  | unpadBad {d} (pad : unpadOK (dinBytes d) = false) : CommandWrites .unpad d .badpad
      { d with dout := zeroWords, cnt := 0#4 }
  | encStartIv {d} (idle : d.mode = .idle) (key : d.keyvalid = true) :
      CommandWrites (.cbcEncStart .iv) d .ok (openEncryption d.iv d)
  | encStartRng {d b} (idle : d.mode = .idle) (key : d.keyvalid = true) :
      CommandWrites (.cbcEncStart .rng) d .ok (openEncryption (blockWords b) d)
  | encBlock {d} (enc : d.mode = .enc) (more : d.blkrem.toNat ≠ 1) : CommandWrites .cbcEncBlock d .ok
      { d with dout := blockWords (encOutput d), chain := blockWords (encOutput d), blkrem := d.blkrem - 1#29 }
  | encBlockLast {d} (enc : d.mode = .enc) (last : d.blkrem.toNat = 1) : CommandWrites .cbcEncBlock d .ok
      { d with
        dout := blockWords (encOutput d), chain := blockWords (encOutput d), blkrem := 0#29, mode := .idle
        tail := 0#4 }
  | decStart {d} (idle : d.mode = .idle) (key : d.keyvalid = true) (len : decLengthOK d.len = true) :
      CommandWrites .cbcDecStart d .ok
        { d with chain := d.iv, blkrem := decBlocks d.len, tail := 0#4, cnt := 0#4, mode := .dec }
  | decBlock {d} (dec : d.mode = .dec) (more : d.blkrem.toNat ≠ 1) : CommandWrites .cbcDecBlock d .ok
      { d with dout := blockWords (decOutput d), chain := d.din, blkrem := d.blkrem - 1#29 }
  | decBlockLast {d} (dec : d.mode = .dec) (last : d.blkrem.toNat = 1) (pad : unpadOK (decOutput d) = true) :
      CommandWrites .cbcDecBlock d .ok
        { d with
          dout := blockWords (decOutput d), chain := d.din, blkrem := 0#29, mode := .idle
          cnt := unpadCount (decOutput d) }
  | decBlockBad {d} (dec : d.mode = .dec) (last : d.blkrem.toNat = 1) (pad : unpadOK (decOutput d) = false) :
      CommandWrites .cbcDecBlock d .badpad
        { d with dout := zeroWords, chain := d.din, blkrem := 0#29, mode := .idle, cnt := 0#4 }
  | cbcAbort {d} : CommandWrites .cbcAbort d .ok
      { d with mode := .idle, blkrem := 0#29, tail := 0#4, chain := zeroWords }

/-- A command completes with its writes: it answers a next state, in which beside the block at most the count of entropy
requests has changed (R222). -/
def Completes (i : Instr) (s : State) : Prop :=
  ∃ code d n, CommandWrites i s.dev code d ∧
    exec i s = .next { s with dev := d.complete code, draws := { s.draws with entropy := n } }

theorem completes_of_finish {i : Instr} {s : State} {code : ErrCode} {d : Device} (h : CommandWrites i s.dev code d)
    (he : exec i s = finish code d s) : Completes i s :=
  ⟨code, d, s.draws.entropy, h, he⟩

theorem completes_of_raise {i : Instr} {s : State} {code : ErrCode} (h : Refuses s.dev code i)
    (he : exec i s = raise code s) : Completes i s :=
  completes_of_finish (.refused h) he

/-- The countdown of a session reaches 0 exactly from BLKREM = 1. -/
theorem blkrem_sub_one_eq_zero_iff (b : BitVec 29) : b - 1#29 = 0#29 ↔ b.toNat = 1 := by
  constructor <;> intro h <;> bv_omega

/-- A command with one check completes, refused by it or with its writes. -/
theorem completes_of_check {i : Instr} {s : State} {p : Prop} [Decidable p] {code : ErrCode} {d : Device}
    (fails : p → Refuses s.dev code i) (passes : ¬p → CommandWrites i s.dev .ok d)
    (he : exec i s = if p then raise code s else finish .ok d s) : Completes i s := by
  by_cases h : p
  · exact completes_of_raise (fails h) (he.trans (if_pos h))
  · exact completes_of_finish (passes h) (he.trans (if_neg h))

theorem completes_unpad (s : State) : Completes .unpad s := by
  cases pad : unpadOK (dinBytes s.dev) with
  | true => exact completes_of_finish (.unpad pad) (by simp [exec, execUnpad, pad])
  | false => exact completes_of_finish (.unpadBad pad) (by simp [exec, execUnpad, pad])

theorem completes_cbcEncStart (src : IvSource) (s : State) : Completes (.cbcEncStart src) s := by
  by_cases busy : s.dev.mode ≠ .idle
  · exact completes_of_raise (.inl ⟨rfl, busy⟩) (if_pos busy)
  have idle : s.dev.mode = .idle := by simpa using busy
  by_cases key : s.dev.keyvalid = false
  · exact completes_of_raise (.inr (.inl ⟨rfl, idle, key⟩)) ((if_neg busy).trans (if_pos key))
  have key' : s.dev.keyvalid = true := by simpa using key
  cases src with
  | iv => exact completes_of_finish (.encStartIv idle key') ((if_neg busy).trans (if_neg key))
  | rng =>
    cases he : Config.entropy s.draws.entropy with
    | none =>
      refine ⟨.rngfail, s.dev, s.draws.entropy + 1, .refused (.inr (.inr ⟨rfl, idle, key', rfl⟩)), ?_⟩
      simp [exec, execCbcEncStart, busy, key, requestEntropy, he, raise_eq]
    | some b =>
      refine ⟨.ok, _, s.draws.entropy + 1, .encStartRng (b := b) idle key', ?_⟩
      simp [exec, execCbcEncStart, busy, key, requestEntropy, he, finish_eq]

theorem completes_cbcEncBlock (s : State) : Completes .cbcEncBlock s := by
  by_cases other : s.dev.mode ≠ .enc
  · exact completes_of_raise ⟨rfl, other⟩ (if_pos other)
  have enc : s.dev.mode = .enc := by simpa using other
  by_cases last : s.dev.blkrem - 1#29 = 0#29
  · refine completes_of_finish (.encBlockLast enc ((blkrem_sub_one_eq_zero_iff _).1 last)) ?_
    simp [exec, execCbcEncBlock, enc, last]
  · refine completes_of_finish (.encBlock enc (mt (blkrem_sub_one_eq_zero_iff _).2 last)) ?_
    simp [exec, execCbcEncBlock, enc, last]

theorem completes_cbcDecStart (s : State) : Completes .cbcDecStart s := by
  by_cases busy : s.dev.mode ≠ .idle
  · exact completes_of_raise (.inl ⟨rfl, busy⟩) (if_pos busy)
  have idle : s.dev.mode = .idle := by simpa using busy
  by_cases key : s.dev.keyvalid = false
  · exact completes_of_raise (.inr (.inl ⟨rfl, idle, key⟩)) ((if_neg busy).trans (if_pos key))
  have key' : s.dev.keyvalid = true := by simpa using key
  by_cases len : decLengthOK s.dev.len = false
  · exact completes_of_raise (.inr (.inr ⟨rfl, idle, key', len⟩))
      ((if_neg busy).trans ((if_neg key).trans (if_pos len)))
  · exact completes_of_finish (.decStart idle key' (by simpa using len))
      ((if_neg busy).trans ((if_neg key).trans (if_neg len)))

theorem completes_cbcDecBlock (s : State) : Completes .cbcDecBlock s := by
  by_cases other : s.dev.mode ≠ .dec
  · exact completes_of_raise ⟨rfl, other⟩ (if_pos other)
  have dec : s.dev.mode = .dec := by simpa using other
  by_cases last : s.dev.blkrem - 1#29 = 0#29
  · have last' := (blkrem_sub_one_eq_zero_iff _).1 last
    cases pad : unpadOK (decOutput s.dev) with
    | true =>
      refine completes_of_finish (.decBlockLast dec last' pad) ?_
      simp [exec, execCbcDecBlock, dec, last, pad]
    | false =>
      refine completes_of_finish (.decBlockBad dec last' pad) ?_
      simp [exec, execCbcDecBlock, dec, last, pad]
  · refine completes_of_finish (.decBlock dec (mt (blkrem_sub_one_eq_zero_iff _).2 last)) ?_
    simp [exec, execCbcDecBlock, dec, last]

/-- Every command completes, with the writes of its rule (R222, R227). -/
theorem exec_completes (i : Instr) (s : State) : Completes i s := by
  cases i with
  | nop => exact completes_of_finish .nop rfl
  | clear => exact completes_of_finish .clear rfl
  | shaInit => exact completes_of_finish .shaInit rfl
  | shaBlock => exact completes_of_check (⟨rfl, ·⟩) (fun act => .shaBlock (by simpa using act)) rfl
  | shaFinal n => exact completes_of_check (⟨rfl, ·⟩) (fun act => .shaFinal (by simpa using act)) rfl
  | keyExpand src => exact completes_of_check (⟨rfl, ·⟩) (fun busy => .keyExpand (by simpa using busy)) rfl
  | aesEnc => exact completes_of_check (⟨rfl, ·⟩) (fun key => .aesEnc (by simpa using key)) rfl
  | aesDec => exact completes_of_check (⟨rfl, ·⟩) (fun key => .aesDec (by simpa using key)) rfl
  | pad n => exact completes_of_finish .pad rfl
  | unpad => exact completes_unpad s
  | cbcEncStart src => exact completes_cbcEncStart src s
  | cbcEncBlock => exact completes_cbcEncBlock s
  | cbcDecStart => exact completes_cbcDecStart s
  | cbcDecBlock => exact completes_cbcDecBlock s
  | cbcAbort => exact completes_of_finish .cbcAbort rfl

/-- The inversion of a command's meaning: the block it leaves is that of its rule's writes, completed. -/
theorem exec_writes {i : Instr} {s t : State} (h : exec i s = .next t) :
    ∃ code d, CommandWrites i s.dev code d ∧ t.dev = d.complete code := by
  obtain ⟨code, d, n, hw, he⟩ := exec_completes i s
  rw [h] at he
  exact ⟨code, d, hw, by rw [Host.Outcome.next.inj he]⟩

end Sys2Proof.Machine
end

section
/-! The frame of the commands (R50, R249), from the writes of `CommandWrites`. -/

namespace Sys2Proof.Machine

open Sys2Proof.Statements

/-- `complete` writes of the window STATUS alone (R222). -/
theorem readval_complete {r : Reg} (hr : r ≠ .status) (code : ErrCode) (d : Device) :
    readval (d.complete code) r = readval d r := by
  cases r with
  | status => exact absurd rfl hr
  | _ => rfl

/-- Whether a BLOCK command at the block d ends its session (R203, R205). -/
abbrev endsSession (d : Device) : Bool := decide (d.blkrem.toNat = 1)

/-- A register that the table does not list for a command is none of the fields its rule writes; TAIL, CNT and MODE are
among those of a BLOCK command only at the end of its session. -/
theorem CommandWrites.readval_eq {i : Instr} {d d' : Device} {code : ErrCode} (h : CommandWrites i d code d') {r : Reg}
    (hs : r ≠ .status) (hr : mayWrite (endsSession d) i r = false) : readval d' r = readval d r := by
  cases h with
  | refused | nop => rfl
  | _ => cases r <;> simp_all [mayWrite, readval, ctrlWord]

theorem CommandWrites.keyvalid_eq {i : Instr} {d d' : Device} {code : ErrCode} (h : CommandWrites i d code d')
    (hr : mayWriteKeyvalid i = false) : d'.keyvalid = d.keyvalid := by
  cases h with
  | clear | keyExpand => simp [mayWriteKeyvalid] at hr
  | _ => rfl

theorem CommandWrites.shaact_eq {i : Instr} {d d' : Device} {code : ErrCode} (h : CommandWrites i d code d')
    (hr : mayWriteShaact i = false) : d'.shaact = d.shaact := by
  cases h with
  | clear | shaInit | shaFinal => simp [mayWriteShaact] at hr
  | _ => rfl

theorem CommandWrites.mode_eq {i : Instr} {d d' : Device} {code : ErrCode} (h : CommandWrites i d code d')
    (hr : mayWriteMode (endsSession d) i = false) : d'.mode = d.mode := by
  cases h with
  | clear | encStartIv | encStartRng | decStart | cbcAbort => simp [mayWriteMode] at hr
  | encBlockLast _ last | decBlockLast _ last | decBlockBad _ last => simp [mayWriteMode, last] at hr
  | _ => rfl

theorem CommandWrites.ie_wob_eq {i : Instr} {d d' : Device} {code : ErrCode} (h : CommandWrites i d code d') :
    d'.ie = d.ie ∧ d'.wob = d.wob := by
  cases h <;> exact ⟨rfl, rfl⟩

/-- A command that fails with another code than BADPAD writes nothing (R249). -/
theorem CommandWrites.eq_of_failed {i : Instr} {d d' : Device} {code : ErrCode} (h : CommandWrites i d code d')
    (hok : code ≠ .ok) (hbad : code ≠ .badpad) : d' = d := by
  cases h with
  | refused => rfl
  | unpadBad | decBlockBad => exact absurd rfl hbad
  | _ => exact absurd rfl hok

end Sys2Proof.Machine

open Sys2Proof.Machine

/-- Settles O22: a command that fails with another code than BADPAD writes nothing, and any other makes its rule's
writes, each of which is in the table. -/
theorem commandsWriteOnlyWhatTheTableLists : Obligations.CommandsWriteOnlyWhatTheTableLists := by
  unfold Obligations.CommandsWriteOnlyWhatTheTableLists
  rintro i s t last refused h rfl rfl
  obtain ⟨code, d, hw, ht⟩ := exec_writes h
  rw [ht]
  have failed (hf : decide (code ≠ .ok ∧ code ≠ .badpad) = true) : d = s.dev :=
    hw.eq_of_failed (of_decide_eq_true hf).1 (of_decide_eq_true hf).2
  refine ⟨fun r hs hr => (readval_complete hs code d).trans ?_, ?_, ?_, ?_, hw.ie_wob_eq⟩
  · exact hr.elim (hw.readval_eq hs) fun hf => failed hf ▸ rfl
  · exact fun hr => hr.elim hw.keyvalid_eq fun hf => by simp [failed hf]
  · exact fun hr => hr.elim hw.shaact_eq fun hf => by simp [failed hf]
  · exact fun hr => hr.elim hw.mode_eq fun hf => by simp [failed hf]
end

section
/-! The invariants of R49 along a run, strengthened by the key that the last KEY_EXPAND of the run read. -/

namespace Sys2Proof.Machine

/-! ### The invariant, strengthened by the last key read (R49e) -/

/-- R49(a) to (c): the fields of the CBC session agree with each other. -/
def SessionInv (d : Device) : Prop := SessionCounts d ∧ IdleCounts d ∧ DecryptionTail d

/-- R49(e) and R46 for the key k last read: with KEYVALID = 1, RK is its expansion; with KEYVALID = 0, RK is 0. -/
def ScheduleOf (k : Option (Vector Byte 32)) (d : Device) : Prop :=
  (d.keyvalid = true → ∃ b, k = some b ∧ d.rk = keyExpansion b) ∧
  (d.keyvalid = false → d.rk = Vector.replicate 60 0#32)

/-- R49(d) and R251: BUSY, DONE and the pending command agree with each other. -/
def BusyInv (d : Device) : Prop := BusyIffPending d ∧ BusyNotDone d

/-- The invariants of the block, with k the key last read. -/
structure KeyedInv (k : Option (Vector Byte 32)) (d : Device) : Prop where
  session : SessionInv d
  schedule : ScheduleOf k d
  busy : BusyInv d

theorem scheduleExpanded_iff (d : Device) : ScheduleExpanded d ↔ ∃ k, ScheduleOf k d := by
  constructor
  · rintro ⟨hv, hz⟩
    cases hk : d.keyvalid with
    | true =>
      obtain ⟨b, hb⟩ := hv hk
      exact ⟨some b, fun _ => ⟨b, rfl, hb⟩, hz⟩
    | false => exact ⟨none, by simp [hk], hz⟩
  · rintro ⟨k, hv, hz⟩
    exact ⟨fun h => (hv h).imp fun _ => And.right, hz⟩

/-- The invariants of R49 are the strengthened ones for some key. -/
theorem deviceInv_iff (d : Device) : DeviceInv d ↔ ∃ k, KeyedInv k d := by
  constructor
  · rintro ⟨ha, hb, hc, hd, he, hf⟩
    obtain ⟨k, hk⟩ := (scheduleExpanded_iff d).1 he
    exact ⟨k, ⟨ha, hb, hc⟩, hk, hd, hf⟩
  · rintro ⟨k, ⟨ha, hb, hc⟩, hk, hd, hf⟩
    exact ⟨ha, hb, hc, hd, (scheduleExpanded_iff d).2 ⟨k, hk⟩, hf⟩

/-! ### Reset and commands keep it -/

/-- R201, R229: an encryption session opens with 1 to 2^28 blocks. -/
theorem encBlocks_bounds (len : Word) : 1 ≤ (encBlocks len).toNat ∧ (encBlocks len).toNat ≤ 2 ^ 28 := by
  have := len.isLt
  simp only [encBlocks, BitVec.toNat_ofNat]
  omega

/-- R204, R229: a decryption session opens with 1 to 2^28 blocks. -/
theorem decBlocks_bounds {len : Word} (h : decLengthOK len = true) :
    1 ≤ (decBlocks len).toNat ∧ (decBlocks len).toNat ≤ 2 ^ 28 := by
  have := len.isLt
  simp only [decLengthOK, Bool.and_eq_true, decide_eq_true_eq, beq_iff_eq] at h
  simp only [decBlocks, BitVec.toNat_ofNat]
  omega

/-- A block that is not the session's last leaves between 1 and 2^28 blocks. -/
theorem blkrem_sub_one_bounds {b : BitVec 29} (h : 1 ≤ b.toNat ∧ b.toNat ≤ 2 ^ 28) (more : b.toNat ≠ 1) :
    1 ≤ (b - 1#29).toNat ∧ (b - 1#29).toNat ≤ 2 ^ 28 := by
  bv_omega

theorem ScheduleOf.congr {k : Option (Vector Byte 32)} {d d' : Device} (h : ScheduleOf k d)
    (hk : d'.keyvalid = d.keyvalid) (hr : d'.rk = d.rk) : ScheduleOf k d' := by
  simpa only [ScheduleOf, hk, hr] using h

theorem SessionInv.congr {d d' : Device} (h : SessionInv d) (hm : d'.mode = d.mode) (hk : d'.keyvalid = d.keyvalid)
    (hb : d'.blkrem = d.blkrem) (ht : d'.tail = d.tail) : SessionInv d' := by
  simpa only [SessionInv, SessionCounts, IdleCounts, DecryptionTail, hm, hk, hb, ht] using h

/-- A block with no session, no blocks left and no tail. -/
theorem sessionInv_of_idle {d : Device} (hm : d.mode = .idle) (hb : d.blkrem = 0#29) (ht : d.tail = 0#4) :
    SessionInv d :=
  ⟨fun h => absurd hm h, fun _ => ⟨hb, ht⟩, fun _ => ht⟩

/-- A block with an open session. -/
theorem sessionInv_of_open {d : Device} (hm : d.mode ≠ .idle) (hk : d.keyvalid = true)
    (hb : 1 ≤ d.blkrem.toNat ∧ d.blkrem.toNat ≤ 2 ^ 28) (ht : d.mode = .dec → d.tail = 0#4) : SessionInv d :=
  ⟨fun _ => ⟨hk, hb⟩, fun h => absurd h hm, ht⟩

/-- Reset leaves KEYVALID = 0, so that its block meets the invariants whatever key was last read (R270). -/
theorem keyedInv_reset (k : Option (Vector Byte 32)) : KeyedInv k Device.reset where
  session := sessionInv_of_idle rfl rfl rfl
  schedule := ⟨nofun, fun _ => rfl⟩
  busy := ⟨rfl, nofun⟩

/-- The writes of every command keep R49(a) to (c): a session opens with a legal count, counts down, or closes with
BLKREM = TAIL = 0. -/
theorem CommandWrites.sessionInv {i : Instr} {d d' : Device} {code : ErrCode} (hw : CommandWrites i d code d')
    (h : SessionInv d) : SessionInv d' := by
  have ⟨counts, idle, tail⟩ := h
  cases hw with
  | clear | cbcAbort | encBlockLast => exact sessionInv_of_idle rfl rfl rfl
  | decBlockLast dec | decBlockBad dec => exact sessionInv_of_idle rfl rfl (tail dec)
  | keyExpand hm => exact sessionInv_of_idle hm (idle hm).1 (idle hm).2
  | encStartIv _ key | encStartRng _ key => exact sessionInv_of_open nofun key (encBlocks_bounds _) nofun
  | decStart _ key len => exact sessionInv_of_open nofun key (decBlocks_bounds len) fun _ => rfl
  | encBlock enc more =>
    have hm : d.mode ≠ .idle := by simp [enc]
    exact sessionInv_of_open hm (counts hm).1 (blkrem_sub_one_bounds (counts hm).2 more) tail
  | decBlock dec more =>
    have hm : d.mode ≠ .idle := by simp [dec]
    exact sessionInv_of_open hm (counts hm).1 (blkrem_sub_one_bounds (counts hm).2 more) tail
  | _ => exact h.congr rfl rfl rfl rfl

/-- The key last read after the command i completes at the block d, where it was k before (R49e, R145). -/
def keyRead (d : Device) (k : Option (Vector Byte 32)) : Instr → Option (Vector Byte 32)
  | .keyExpand src => if d.mode = .idle then some (keyBytes src d) else k
  | _ => k

theorem keyAfter_decoded {s : State} {v : Word} {i : Instr} (ht : nextTurn s = .completion)
    (hp : s.dev.pending = some v) (hd : decode v = .ok i) (k : Option (Vector Byte 32)) :
    keyAfter s k = keyRead s.dev k i := by
  rw [keyAfter_completion ht hp hd]
  cases i <;> rfl

/-- An illegal word reads no key (R242). -/
theorem keyAfter_illegal {s : State} {v : Word} {e : IllegalWord} (ht : nextTurn s = .completion)
    (hp : s.dev.pending = some v) (hd : decode v = .error e) (k : Option (Vector Byte 32)) : keyAfter s k = k := by
  simp [keyAfter, ht, hp, hd]

theorem keyRead_keyExpand {d : Device} (idle : d.mode = .idle) (k : Option (Vector Byte 32)) (src : KeySource) :
    keyRead d k (.keyExpand src) = some (keyBytes src d) := if_pos idle

/-- A refused command reads no key. -/
theorem keyRead_of_refused {i : Instr} {d : Device} {code : ErrCode} (h : Refuses d code i)
    (k : Option (Vector Byte 32)) : keyRead d k i = k := by
  cases i with
  | keyExpand src => exact if_neg h.2
  | _ => rfl

/-- The writes of every command keep R49(e), for the key last read. -/
theorem CommandWrites.scheduleOf {i : Instr} {d d' : Device} {code : ErrCode} (hw : CommandWrites i d code d')
    {k : Option (Vector Byte 32)} (h : ScheduleOf k d) : ScheduleOf (keyRead d k i) d' := by
  cases hw with
  | refused hr => rwa [keyRead_of_refused hr]
  | clear => exact ⟨nofun, fun _ => rfl⟩
  | @keyExpand _ src idle => exact ⟨fun _ => ⟨keyBytes src d, keyRead_keyExpand idle k src, rfl⟩, nofun⟩
  | _ => exact h.congr rfl rfl

/-- After `complete` the block is not busy and nothing is pending (R222). -/
theorem busyInv_complete (code : ErrCode) (d : Device) : BusyInv (d.complete code) := ⟨rfl, nofun⟩

theorem CommandWrites.keyedInv {i : Instr} {d d' : Device} {code : ErrCode} (hw : CommandWrites i d code d')
    {k : Option (Vector Byte 32)} (h : KeyedInv k d) : KeyedInv (keyRead d k i) (d'.complete code) where
  session := hw.sessionInv h.session
  schedule := hw.scheduleOf h.schedule
  busy := busyInv_complete code d'

/-- `complete` alone keeps the invariants (R242). -/
theorem KeyedInv.complete {k : Option (Vector Byte 32)} {d : Device} (h : KeyedInv k d) (code : ErrCode) :
    KeyedInv k (d.complete code) where
  session := h.session
  schedule := h.schedule
  busy := busyInv_complete code d

/-! ### The host's actions keep it -/

/-- A write to a block that is not busy accepts a command or leaves BUSY and the pending word (R71, R220). -/
theorem writeReg_busy (r : Reg) (v : Word) (s : State) :
    ((writeReg r v s).dev.busy = true ∧ (writeReg r v s).dev.pending = some v ∧ (writeReg r v s).dev.done = false) ∨
    ((writeReg r v s).dev.busy = s.dev.busy ∧ (writeReg r v s).dev.pending = s.dev.pending) := by
  cases r with
  | cmd => exact .inl ⟨rfl, rfl, rfl⟩
  | _ => exact .inr ⟨rfl, rfl⟩

theorem busyInv_writeReg {s : State} (hb : s.dev.busy = false) (h : BusyInv s.dev) (r : Reg) (v : Word) :
    BusyInv (writeReg r v s).dev := by
  obtain ⟨pending, -⟩ := h
  obtain ⟨hb', hp', hd'⟩ | ⟨hb', hp'⟩ := writeReg_busy r v s
  · exact ⟨by simp [BusyIffPending, hb', hp'], fun _ => hd'⟩
  · exact ⟨by rw [BusyIffPending, hb', hp', pending], by simp [BusyNotDone, hb', hb]⟩

theorem KeyedInv.writeReg {k : Option (Vector Byte 32)} {s : State} (h : KeyedInv k s.dev) (hb : s.dev.busy = false)
    (r : Reg) (v : Word) : KeyedInv k (writeReg r v s).dev := by
  obtain ⟨hkey, -, hmode, -, -, hblk, htail, -, -, -, -, hrk⟩ := writeReg_readonly r v s
  exact {
    session := h.session.congr hmode hkey hblk htail
    schedule := h.schedule.congr hkey hrk
    busy := busyInv_writeReg hb h.busy r v }

theorem KeyedInv.discardWrite {k : Option (Vector Byte 32)} {s : State} (h : KeyedInv k s.dev) :
    KeyedInv k (discardWrite s).dev where
  session := h.session
  schedule := h.schedule
  busy := h.busy

theorem KeyedInv.busWrite {k : Option (Vector Byte 32)} {s : State} (h : KeyedInv k s.dev) (off : Offset) (size : Nat)
    (v : Word) : KeyedInv k (busWrite off size v s).2.dev := by
  obtain ⟨-, hw⟩ | ⟨r, -, -, -, hw⟩ | ⟨r, -, -, hb, hw⟩ := busWrite_cases off size v s
  · rwa [hw]
  · rw [hw]
    exact h.discardWrite
  · rw [hw]
    exact h.writeReg hb r v

/-- The host's turn: a read leaves the block, a write goes to the bus, and reset meets the invariants by itself. -/
theorem KeyedInv.hostTurn {k : Option (Vector Byte 32)} {s : State} (h : KeyedInv k s.dev) (a : Action)
    (rest : List Action) : KeyedInv k (hostTurn a rest s).dev := by
  unfold Machine.hostTurn
  cases a with
  | read | check | poll => simpa using h
  | write off size v =>
    rw [performAction_write_dev]
    exact KeyedInv.busWrite (s := { s with script := rest, lat := s.lat - 1 }) h off size v
  | reset c => simpa using keyedInv_reset k

/-! ### A step keeps it -/

/-- BUSY = 1 has a pending command to complete (R49d). -/
theorem BusyInv.pending {d : Device} (h : BusyInv d) (hb : d.busy = true) : ∃ v, d.pending = some v := by
  obtain ⟨pending, -⟩ := h
  exact Option.isSome_iff_exists.1 (pending.symm.trans hb)

/-- The execution of the pending word answers a next state, which meets the invariants. -/
theorem execute_keeps {k : Option (Vector Byte 32)} {s : State} {v : Word} (h : KeyedInv k s.dev)
    (ht : nextTurn s = .completion) (hp : s.dev.pending = some v) :
    ∃ t, execute v s = .next t ∧ KeyedInv (keyAfter s k) t.dev := by
  obtain ⟨i, hd, he⟩ | ⟨e, hd, he⟩ := execute_cases v s
  · obtain ⟨code, d, n, hw, hx⟩ := exec_completes i s
    exact ⟨_, he.trans hx, keyAfter_decoded ht hp hd k ▸ hw.keyedInv h⟩
  · exact ⟨_, he, (keyAfter_illegal ht hp hd k).symm ▸ h.complete .illcmd⟩

/-- A step from a block that meets the invariants answers a next state, which meets them for the key then last read. -/
theorem step_keeps {k : Option (Vector Byte 32)} {s : State} (h : KeyedInv k s.dev) :
    ∃ t, step s = .next t ∧ KeyedInv (keyAfter s k) t.dev := by
  cases ht : nextTurn s with
  | completion =>
    obtain ⟨v, hp⟩ := h.busy.pending (nextTurn_completion ht).1
    rw [step_completion ht hp]
    exact execute_keeps h ht hp
  | host a rest =>
    rw [keyAfter_host ht]
    exact ⟨_, step_host ht, h.hostTurn a rest⟩
  | idle => exact ⟨s, by simp [step, ht], by simpa [keyAfter, ht] using h⟩

/-- Every state of a run meets the invariants for the key that the run last read. -/
theorem keyedInv_of_reachableWithKey {k : Option (Vector Byte 32)} {s : State} (h : ReachableWithKey k s) :
    KeyedInv k s.dev := by
  induction h with
  | start hs => exact hs ▸ keyedInv_reset none
  | next _ hstep ih =>
    obtain ⟨t, ht, hinv⟩ := step_keeps ih
    rw [hstep] at ht
    exact Host.Outcome.next.inj ht ▸ hinv

/-- A run has a key that it last read, or none. -/
theorem exists_reachableWithKey {s : State} (h : Reachable s) : ∃ k, ReachableWithKey k s := by
  induction h with
  | start hs => exact ⟨none, .start hs⟩
  | next _ hstep ih => exact ih.imp' (keyAfter _) fun _ hk => hk.next hstep

theorem ErrCode.code_le (e : ErrCode) : e.code.toNat ≤ 6 := by cases e <;> decide

theorem Mode.code_le (m : Mode) : m.code.toNat ≤ 2 := by cases m <;> decide

end Sys2Proof.Machine

open Sys2Proof Sys2Proof.Machine

/-- Settles O26: the reset block meets the invariants with no key read. -/
theorem resetMeetsTheInvariants : Obligations.ResetMeetsTheInvariants :=
  (deviceInv_iff Device.reset).2 ⟨none, keyedInv_reset none⟩

/-- Settles O27: the key that a step reads, if it reads one, is the witness of R49(e) after it. -/
theorem stepKeepsTheInvariants : Obligations.StepKeepsTheInvariants := by
  intro s h
  obtain ⟨k, hk⟩ := (deviceInv_iff s.dev).1 h
  obtain ⟨t, ht, hinv⟩ := step_keeps hk
  exact ⟨t, ht, (deviceInv_iff t.dev).2 ⟨keyAfter s k, hinv⟩⟩

/-- Settles O28, by induction on the run with the invariants strengthened by the key last read. -/
theorem reachableStatesMeetTheInvariants : Obligations.ReachableStatesMeetTheInvariants := by
  refine ⟨fun s => exists_reachableWithKey, fun k s hr => ?_⟩
  obtain ⟨⟨counts, idle, tail⟩, ⟨schedule, -⟩, busy, -⟩ := keyedInv_of_reachableWithKey hr
  have pending : s.dev.busy = true ↔ ∃ v, s.dev.pending = some v := by
    rw [busy, Option.isSome_iff_exists]
  exact ⟨counts, idle, tail, pending, schedule, s.dev.err.code_le, s.dev.mode.code_le⟩
end

section
/-! The register map (R21, R62, R63) and what each register reads as (R25, R69, R70). -/

namespace Sys2Proof.Machine

open Sys2Proof.Statements

/-! ### The register map (R21, R62, R63) -/

/-- The aligned offsets of the three ranges of R63, in order. -/
def mappedOffsets : List Nat :=
  (List.range 7).map (4 * ·) ++ (List.range 50).map (0x020 + 4 * ·) ++ (List.range 60).map (0x100 + 4 * ·)

/-- The registers, in the order of the map, fill the three ranges of R63 without a gap or an overlap. -/
theorem allRegs_map_mapOffset : allRegs.map mapOffset = mappedOffsets := by decide

theorem mem_mappedOffsets (off : Offset) : off.toNat ∈ mappedOffsets ↔ MappedRange off := by
  simp only [mappedOffsets, MappedRange, List.mem_append, List.mem_map, List.mem_range]
  constructor
  · rintro ((⟨k, hk, h⟩ | ⟨k, hk, h⟩) | ⟨k, hk, h⟩) <;> omega
  · rintro ⟨aligned, low | middle | high⟩
    · exact .inl (.inl ⟨off.toNat / 4, by omega, by omega⟩)
    · exact .inl (.inr ⟨(off.toNat - 0x020) / 4, by omega, by omega⟩)
    · exact .inr ⟨(off.toNat - 0x100) / 4, by omega, by omega⟩

theorem mappedOffsets_nodup : mappedOffsets.Nodup := by decide

theorem mapOffset_injective : Function.Injective mapOffset := fun r q h =>
  List.inj_on_of_nodup_map (allRegs_map_mapOffset ▸ mappedOffsets_nodup) (mem_allRegs r) (mem_allRegs q) h

/-- The model's offsets are those of R21. -/
theorem offset_toNat (r : Reg) : r.offset.toNat = mapOffset r := by
  cases r with
  | key k | din k | dout k | iv k | chain k | msg k | hash k | rk k => exact groupOffset_toNat (by omega)
  | _ => rfl

theorem offset_injective : Function.Injective Reg.offset := fun r q h =>
  mapOffset_injective (by rw [← offset_toNat, ← offset_toNat, h])

/-- Every register is found at its offset. -/
theorem regAt_offset (r : Reg) : regAt r.offset = some r := by
  cases h : regAt r.offset with
  | none => exact absurd rfl (regAt_eq_none.1 h r)
  | some q => rw [offset_injective (offset_of_regAt h)]

theorem regAt_eq_some_iff {off : Offset} {r : Reg} : regAt off = some r ↔ r.offset = off :=
  ⟨offset_of_regAt, fun h => h ▸ regAt_offset r⟩

/-- The mapped offsets are those of R63 (R62). -/
theorem exists_regAt_iff (off : Offset) : (∃ r, regAt off = some r) ↔ MappedRange off := by
  rw [← mem_mappedOffsets, ← allRegs_map_mapOffset, List.mem_map]
  refine exists_congr fun r => ?_
  rw [regAt_eq_some_iff, ← BitVec.toNat_inj, offset_toNat]
  exact ⟨fun h => ⟨mem_allRegs r, h⟩, And.right⟩

/-! ### What a register reads as (R25, R69, R70) -/

theorem Mode.code_toNat (m : Mode) : m.code.toNat = modeNumber m := by cases m <;> rfl

theorem ErrCode.code_toNat (e : ErrCode) : e.code.toNat = errNumber e := by cases e <;> rfl

/-- Bits put together are numbers put together: the upper field counts 2^m. -/
theorem toNat_append_eq_add {n m : Nat} (x : BitVec n) (y : BitVec m) : (x ++ y).toNat = 2 ^ m * x.toNat + y.toNat := by
  rw [BitVec.toNat_append, ← Nat.shiftLeft_add_eq_or_of_lt y.isLt, Nat.shiftLeft_eq, Nat.mul_comm]

/-- The STATUS word as a number (R25). -/
theorem statusWord_toNat (d : Device) : (statusWord d).toNat =
    d.busy.toNat + 2 * d.done.toNat + 4 * d.keyvalid.toNat + 8 * d.shaact.toNat + 16 * modeNumber d.mode +
      64 * d.wob.toNat + 256 * errNumber d.err := by
  rw [statusWord, BitVec.toNat_setWidth_of_le (by decide)]
  simp only [toNat_append_eq_add, BitVec.toNat_ofBool, Mode.code_toNat, ErrCode.code_toNat, BitVec.toNat_ofNat]
  omega

/-- The CTRL word as a number (R24). -/
theorem ctrlWord_toNat (d : Device) : (ctrlWord d).toNat = d.ie.toNat := by
  rw [ctrlWord, BitVec.toNat_setWidth_of_le (by decide), BitVec.toNat_ofBool]

/-- The two halves of the bit count (R45). -/
theorem shalen_halves (l : BitVec 64) :
    (l.extractLsb' 32 32).toNat * 2 ^ 32 + (l.extractLsb' 0 32).toNat = l.toNat := by
  have := l.isLt
  simp only [BitVec.extractLsb'_toNat, Nat.shiftRight_eq_div_pow]
  omega

end Sys2Proof.Machine

open Sys2Proof.Machine

/-- Settles O34: the map's offsets fill the ranges of R63 in order, so no two registers share one. -/
theorem eachMappedOffsetNamesOneRegister : Obligations.EachMappedOffsetNamesOneRegister :=
  ⟨exists_regAt_iff, fun r => ⟨regAt_offset r, offset_toNat r⟩, fun _ _ h => offset_injective h⟩

/-- Settles O37: STATUS is the sum of its fields, each at its bit, and every other register its one field. -/
theorem registersReadAsTheirFields : Obligations.RegistersReadAsTheirFields := by
  refine ⟨Mode.code_toNat, ErrCode.code_toNat, fun d => ⟨statusWord_toNat d, ctrlWord_toNat d, rfl, ?_, ?_, ?_,
    shalen_halves d.shalen, rfl, fun _ => rfl, fun _ => rfl, fun _ => rfl, fun _ => rfl, fun _ => rfl, fun _ => rfl,
    fun _ => rfl, fun _ => rfl⟩⟩ <;>
  exact BitVec.toNat_setWidth_of_le (by decide)
end

section
/-! The transactions of the register window (R61-R72, R76): which ones the port rejects, and what a read or a write at a
register's offset does. -/

namespace Sys2Proof.Machine

open Sys2Proof.Statements

/-! ### Addresses of the window (R61) -/

theorem windowOffset_eq_some_iff {addr : Nat} {off : Offset} :
    windowOffset addr = some off ↔ addr = Config.base + off.toNat := by
  have := off.isLt
  simp only [windowOffset, Option.ite_none_right_eq_some, Option.some.injEq, ← BitVec.toNat_inj, BitVec.toNat_ofNat]
  omega

/-! ### Rejected transactions (R64, R65, R76) -/

theorem malformed_iff (off : Offset) (size : Nat) : malformed off size = true ↔ size ≠ 32 ∨ off.toNat % 4 ≠ 0 := by
  simp [malformed]

theorem regAt_eq_none_iff (off : Offset) : regAt off = none ↔ ¬ MappedRange off := by
  rw [← exists_regAt_iff, ← Option.isSome_iff_exists, Option.not_isSome_iff_eq_none]

/-- The two checks of a transaction reject another size than 32 and every offset outside R63; a misaligned offset is
outside it too. -/
theorem rejected_iff (off : Offset) (size : Nat) :
    (malformed off size = true ∨ regAt off = none) ↔ (size ≠ 32 ∨ ¬ MappedRange off) := by
  rw [malformed_iff, regAt_eq_none_iff, or_assoc]
  refine or_congr_right ⟨?_, .inr⟩
  rintro (misaligned | unmapped)
  · exact fun ⟨aligned, _⟩ => misaligned aligned
  · exact unmapped

theorem busRead_of_rejected {off : Offset} {size : Nat} (h : malformed off size = true ∨ regAt off = none) (s : State) :
    busRead off size s = (.error, s) := by
  obtain hm | hr := h
  · simp [busRead, hm]
  · simp [busRead, hr]

theorem busWrite_of_rejected {off : Offset} {size : Nat} (h : malformed off size = true ∨ regAt off = none) (v : Word)
    (s : State) : busWrite off size v s = (.error, s) := by
  obtain hm | hr := h
  · simp [busWrite, hm]
  · simp [busWrite, hr]

/-! ### Transactions at a register's offset (R70, R71) -/

@[simp] theorem malformed_offset (r : Reg) : malformed r.offset 32 = false := by
  obtain ⟨aligned, -⟩ := (exists_regAt_iff r.offset).1 ⟨r, regAt_offset r⟩
  simp [malformed, aligned]

theorem isResult_eq (r : Reg) : r.isResult = resultRegister r := by cases r <;> rfl

theorem busRead_offset {r : Reg} {s : State} (h : s.dev.busy = false ∨ resultRegister r = false) :
    busRead r.offset 32 s = (.data (readval s.dev r), s) := by
  obtain hb | hr := h
  · simp [busRead, regAt_offset, hb]
  · simp [busRead, regAt_offset, isResult_eq, hr]

theorem busRead_offset_of_busy {r : Reg} {s : State} (hb : s.dev.busy = true) (hr : resultRegister r = true) :
    busRead r.offset 32 s = (.data (drawBusyRead r.offset s).1, (drawBusyRead r.offset s).2) := by
  simp [busRead, regAt_offset, isResult_eq, hb, hr]

theorem busWrite_offset {r : Reg} {s : State} (hb : s.dev.busy = false) (v : Word) :
    busWrite r.offset 32 v s = (.okay, writeReg r v s) := by
  simp [busWrite, regAt_offset, hb]

/-! ### The write of one register (R71, R72, R25) -/

/-- In a group of registers a write to one of them leaves the others. -/
theorem getElem_set_of_group_ne {n : Nat} {group : Fin n → Reg} {j k : Fin n} (h : group j ≠ group k)
    (x : Vector Word n) (v : Word) : (x.set k v)[j] = x[j] :=
  Vector.getElem_set_ne k.isLt j.isLt fun hkj => h (congrArg group (Fin.ext hkj.symm))

theorem readval_writeReg_same {r : Reg} (hr : storesValue r = true) (v : Word) (s : State) :
    readval (writeReg r v s).dev r = v := by
  cases r with
  | len => rfl
  | key k | din k | iv k | msg k => exact Vector.getElem_set_self k.isLt
  | _ => nomatch hr

theorem readval_writeReg_ne {r q : Reg} (hr : storesValue r = true) (hq : q ≠ r) (v : Word) (s : State) :
    readval (writeReg r v s).dev q = readval s.dev q := by
  cases r with
  | len =>
    cases q with
    | len => exact absurd rfl hq
    | _ => rfl
  | key k =>
    cases q with
    | key j => exact getElem_set_of_group_ne hq s.dev.key v
    | _ => rfl
  | din k =>
    cases q with
    | din j => exact getElem_set_of_group_ne hq s.dev.din v
    | _ => rfl
  | iv k =>
    cases q with
    | iv j => exact getElem_set_of_group_ne hq s.dev.iv v
    | _ => rfl
  | msg k =>
    cases q with
    | msg j => exact getElem_set_of_group_ne hq s.dev.msg v
    | _ => rfl
  | _ => nomatch hr

theorem writeReg_pending {r : Reg} (hr : r ≠ .cmd) (v : Word) (s : State) :
    (writeReg r v s).dev.pending = s.dev.pending := by
  cases r with
  | cmd => exact absurd rfl hr
  | _ => rfl

theorem writeReg_of_readOnly {r : Reg} (hr : readOnly r = true) (v : Word) (s : State) : writeReg r v s = s := by
  cases r with
  | ctrl | status | cmd | len | key | din | iv | msg => nomatch hr
  | _ => rfl

/-- The write-one-to-clear bits of STATUS, as a choice on each bit (R25). -/
theorem clearFlags_eq_ite (v : Word) (d : Device) : clearFlags v d =
    { d with done := if v.getLsbD 1 then false else d.done, wob := if v.getLsbD 6 then false else d.wob } := by
  simp [clearFlags, Bool.and_comm]

end Sys2Proof.Machine

open Sys2Proof.Machine

/-- Settles O41: an address reaches an offset exactly when it is the base plus that offset. -/
theorem windowAddressesAreItsOffsets : Obligations.WindowAddressesAreItsOffsets :=
  ⟨Nat.mul_mod_right .., fun _ => windowOffset_eq_some_iff.2 rfl, fun _ _ => windowOffset_eq_some_iff.1⟩

/-- Settles O35: such a transaction fails one of the port's two checks, the form or the map. -/
theorem badTransactionsAnswerErrorAndChangeNothing : Obligations.BadTransactionsAnswerErrorAndChangeNothing := by
  intro off size v s bad
  have rejected := (rejected_iff off size).2 bad
  exact ⟨busRead_of_rejected rejected s, busWrite_of_rejected rejected v s⟩

/-- Settles O36: a register's offset passes both checks of the port, and what is left is the register's kind. -/
theorem readGivesTheRegisterOrADraw : Obligations.ReadGivesTheRegisterOrADraw :=
  ⟨fun _ _ => busRead_offset, fun _ _ => busRead_offset_of_busy⟩

/-- Settles O38: the write reaches `writeReg` of that one register, whose four kinds are its four cases. -/
theorem writeStoresInOneRegister : Obligations.WriteStoresInOneRegister := by
  intro r v s hb
  rw [busWrite_offset hb]
  refine ⟨fun stores => ?_, fun ro => by rw [writeReg_of_readOnly ro], ?_, ?_⟩
  · have hr : r ≠ .cmd := by rintro rfl; nomatch stores
    exact ⟨_, rfl, readval_writeReg_same stores v s, fun q hq => readval_writeReg_ne stores hq v s,
      writeReg_pending hr v s, writeReg_env hr v s⟩
  · rintro rfl
    rfl
  · rintro rfl
    rw [← clearFlags_eq_ite]
    rfl
end

section
/-! The command encoding in numbers (R90-R94): the fields of a word, which words a row of the opcode map selects, and
the command it makes of them. -/

namespace Sys2Proof

open Sys2Proof.Statements

/-! ### The fields of a word (R90, R91) -/

theorem opOf_lt (v : Word) : opOf v < 256 := Nat.mod_lt _ (by decide)

theorem argOf_lt (v : Word) : argOf v < 256 := Nat.mod_lt _ (by decide)

theorem toNat_eq_fields (v : Word) : v.toNat = opOf v + 256 * argOf v + 65536 * rsvdOf v := by
  simp only [opOf, argOf, rsvdOf]
  omega

@[simp] theorem countField_zero : countField 0 = 0#32 := rfl

/-- An opcode with a count in ARG is the number opcode + 256 · count. -/
theorem toNat_or_countField {op : Word} {n : Nat} (hop : op.toNat < 256) (hn : n < 256) :
    (op ||| countField n).toNat = op.toNat + 256 * n := by
  have hcount : (countField n).toNat = n <<< 8 := by
    simp only [countField, BitVec.toNat_shiftLeft, BitVec.toNat_ofNat, Nat.shiftLeft_eq]
    omega
  rw [BitVec.toNat_or, hcount, Nat.or_comm, ← Nat.shiftLeft_add_eq_or_of_lt hop, Nat.shiftLeft_eq, Nat.add_comm,
    Nat.mul_comm]

theorem fields_or_countField {op : Word} {n : Nat} (hop : op.toNat < 256) (hn : n < 256) :
    opOf (op ||| countField n) = op.toNat ∧ argOf (op ||| countField n) = n ∧ rsvdOf (op ||| countField n) = 0 := by
  have := toNat_or_countField hop hn
  simp only [opOf, argOf, rsvdOf]
  omega

theorem argOf_mod_two (v : Word) : argOf v % 2 = (v.getLsbD 8).toNat := by
  rw [BitVec.getLsbD, Nat.toNat_testBit, argOf, Nat.mod_mod_of_dvd _ (by decide)]

/-- S of layout L1 as a count in ARG. -/
theorem bit_ksrcField (v : Word) : (ksrcField v).bit = countField (argOf v % 2) := by
  rw [argOf_mod_two, ksrcField]
  cases v.getLsbD 8 <;> rfl

theorem bit_ivsrcField (v : Word) : (ivsrcField v).bit = countField (argOf v % 2) := by
  rw [argOf_mod_two, ivsrcField]
  cases v.getLsbD 8 <;> rfl

theorem n4Field_eq (v : Word) : n4Field v = argOf v % 16 := by
  simp only [n4Field, argOf, BitVec.extractLsb'_toNat, Nat.shiftRight_eq_div_pow]
  omega

theorem n6Field_eq (v : Word) : n6Field v = argOf v % 64 := by
  simp only [n6Field, argOf, BitVec.extractLsb'_toNat, Nat.shiftRight_eq_div_pow]
  omega

/-! ### The masks of the layouts (R91, R92) -/

/-- How many bits of ARG a layout uses, the low ones (R91). -/
def Layout.argBits : Layout → Nat
  | .l0 => 0
  | .l1 => 1
  | .l4 => 4
  | .l6 => 6

theorem Layout.argBits_le (l : Layout) : l.argBits ≤ 8 := by cases l <;> decide

/-- The bits that a layout's mask leaves out are those it uses. -/
theorem Layout.toNat_not_mask (l : Layout) : (~~~l.mask).toNat = (2 ^ l.argBits - 1) <<< 8 := by cases l <;> rfl

theorem toNat_and_not_mask (v : Word) (l : Layout) : (v &&& ~~~l.mask).toNat = 256 * (argOf v % 2 ^ l.argBits) := by
  have shifted : v.toNat &&& (2 ^ l.argBits - 1) <<< 8 = (v.toNat >>> 8 &&& (2 ^ l.argBits - 1)) <<< 8 := by
    refine Nat.eq_of_testBit_eq fun i => ?_
    by_cases hi : 8 ≤ i
    · simp [hi, Bool.and_comm]
    · simp [hi]
  rw [BitVec.toNat_and, l.toNat_not_mask, shifted, Nat.and_two_pow_sub_one_eq_mod, Nat.shiftLeft_eq, Nat.mul_comm,
    argOf, Nat.mod_mod_of_dvd _ (Nat.pow_dvd_pow 2 l.argBits_le), Nat.shiftRight_eq_div_pow]

/-- The bits that the mask keeps and those that it leaves out make up the word. -/
theorem toNat_and_mask_add (v : Word) (l : Layout) :
    (v &&& l.mask).toNat + 256 * (argOf v % 2 ^ l.argBits) = v.toNat := by
  have disjoint : v &&& l.mask &&& (v &&& ~~~l.mask) = 0#32 := by
    rw [BitVec.and_assoc, ← BitVec.and_assoc l.mask, BitVec.and_comm l.mask, BitVec.and_assoc v, BitVec.and_not_self]
    simp
  rw [← toNat_and_not_mask, ← BitVec.toNat_add_of_and_eq_zero disjoint, BitVec.add_eq_or_of_and_eq_zero _ _ disjoint,
    ← BitVec.and_or_distrib_left, BitVec.or_not_self, BitVec.and_allOnes]

/-! ### The words that a row selects (R92, R93) -/

theorem pattern_lt : ∀ r ∈ opcodeMap, r.pattern.toNat < 256 := by decide

theorem patterns_nodup : (opcodeMap.map fun r => r.pattern.toNat).Nodup := by decide

/-- A row selects the words with its match value in OP, no ARG bit but its layout's, and RSVD = 0. -/
theorem selects_iff {r : OpRow} (hr : r ∈ opcodeMap) (v : Word) :
    r.selects v = true ↔ opOf v = r.pattern.toNat ∧ argOf v < 2 ^ r.layout.argBits ∧ rsvdOf v = 0 := by
  have hfields := toNat_eq_fields v
  have hmask := toNat_and_mask_add v r.layout
  have hpattern := pattern_lt r hr
  have hop := opOf_lt v
  have harg := argOf_lt v
  rw [OpRow.selects, beq_iff_eq, ← BitVec.toNat_inj]
  constructor
  · intro h
    have hle := Nat.mod_le (argOf v) (2 ^ r.layout.argBits)
    have hlt := Nat.mod_lt (argOf v) (Nat.two_pow_pos r.layout.argBits)
    omega
  · rintro ⟨hopr, hargr, hrsvd⟩
    rw [Nat.mod_eq_of_lt hargr] at hmask
    omega

theorem selects_or_countField {r : OpRow} (hr : r ∈ opcodeMap) {n : Nat} (hn : n < 2 ^ r.layout.argBits) :
    r.selects (r.pattern ||| countField n) = true := by
  have hn256 : n < 256 := hn.trans_le (Nat.pow_le_pow_right (by decide) r.layout.argBits_le)
  obtain ⟨hop, harg, hrsvd⟩ := fields_or_countField (pattern_lt r hr) hn256
  exact (selects_iff hr _).2 ⟨hop, harg.symm ▸ hn, hrsvd⟩

/-- OP decides the row. -/
theorem selecting_row_unique {v : Word} {r q : OpRow} (hr : r ∈ opcodeMap) (hq : q ∈ opcodeMap)
    (hrv : r.selects v = true) (hqv : q.selects v = true) : r = q := by
  obtain ⟨hopr, -⟩ := (selects_iff hr v).1 hrv
  obtain ⟨hopq, -⟩ := (selects_iff hq v).1 hqv
  exact List.inj_on_of_nodup_map patterns_nodup hr hq (hopr.symm.trans hopq)

/-! ### The decoder by rows (R93, R94) -/

theorem find?_selects_eq_some_iff {v : Word} {r : OpRow} :
    opcodeMap.find? (fun q => q.selects v) = some r ↔ r ∈ opcodeMap ∧ r.selects v = true := by
  constructor
  · intro h
    have hv := List.find?_some h
    exact ⟨List.mem_of_find?_eq_some h, hv⟩
  · rintro ⟨hr, hv⟩
    cases h : opcodeMap.find? (fun q => q.selects v) with
    | none => exact absurd hv (List.find?_eq_none.1 h r hr)
    | some q =>
      have hqv := List.find?_some h
      rw [selecting_row_unique hr (List.mem_of_find?_eq_some h) hv hqv]

theorem decode_of_selects {v : Word} {r : OpRow} (hr : r ∈ opcodeMap) (hv : r.selects v = true) :
    decode v = .ok (r.build v) := by
  rw [decode, find?_selects_eq_some_iff.2 ⟨hr, hv⟩]

theorem decode_eq_ok_iff {v : Word} {i : Instr} :
    decode v = .ok i ↔ ∃ r ∈ opcodeMap, r.selects v = true ∧ r.build v = i := by
  constructor
  · intro h
    unfold decode at h
    split at h
    next r hfind =>
      obtain ⟨hr, hv⟩ := find?_selects_eq_some_iff.1 hfind
      exact ⟨r, hr, hv, Except.ok.inj h⟩
    next => nomatch h
  · rintro ⟨r, hr, hv, rfl⟩
    exact decode_of_selects hr hv

/-- A word is illegal when no row selects it. -/
theorem exists_decode_eq_error_iff {v : Word} :
    (∃ e, decode v = .error e) ↔ ∀ r ∈ opcodeMap, ¬ r.selects v = true := by
  constructor
  · rintro ⟨e, he⟩ r hr hv
    rw [decode_of_selects hr hv] at he
    nomatch he
  · intro none
    cases hd : decode v with
    | ok i =>
      obtain ⟨r, hr, hv, -⟩ := decode_eq_ok_iff.1 hd
      exact absurd hv (none r hr)
    | error e => exact ⟨e, rfl⟩

/-- The assigned opcodes are the rows' match values (R94a). -/
theorem unassigned_iff {op : Nat} (h : op < 256) : Unassigned op ↔ ∀ r ∈ opcodeMap, ¬ op = r.pattern.toNat := by
  simp only [opcodeMap, Unassigned, List.forall_mem_cons, List.not_mem_nil, false_imp_iff, implies_true, and_true,
    BitVec.toNat_ofNat, Nat.reducePow, Nat.reduceMod]
  omega

/-- The unused bits of ARG stand above the used ones, so ARG is too large when one of them is 1 (R94c). -/
theorem unusedBitSet_iff (arg : Nat) :
    ∀ r ∈ opcodeMap, UnusedBitSet r.pattern.toNat arg ↔ 2 ^ r.layout.argBits ≤ arg := by
  simp [opcodeMap, UnusedBitSet, Layout.argBits, Nat.one_le_iff_ne_zero]

/-- R94's three cases say of a row's opcode what `selects_iff` asks of its words. -/
theorem illegal_iff (v : Word) : (∃ e, decode v = .error e) ↔
    Unassigned (opOf v) ∨ rsvdOf v ≠ 0 ∨ UnusedBitSet (opOf v) (argOf v) := by
  rw [exists_decode_eq_error_iff, unassigned_iff (opOf_lt v)]
  constructor
  · intro none
    by_contra legal
    push Not at legal
    obtain ⟨⟨r, hr, hop⟩, hrsvd, used⟩ := legal
    rw [hop, unusedBitSet_iff _ r hr, Nat.not_le] at used
    exact none r hr ((selects_iff hr v).2 ⟨hop, used, hrsvd⟩)
  · intro illegal r hr hv
    obtain ⟨hop, harg, hrsvd⟩ := (selects_iff hr v).1 hv
    obtain unassigned | reserved | unused := illegal
    · exact unassigned r hr hop
    · exact reserved hrsvd
    · rw [hop, unusedBitSet_iff _ r hr] at unused
      exact absurd harg (Nat.not_lt.2 unused)

/-! ### A command and its word (R97) -/

/-- The command that a row builds is well-formed, and its word is the row's match value with the bits of ARG that the
layout uses. -/
theorem encode_build (v : Word) : ∀ r ∈ opcodeMap, (r.build v).wellFormed = true ∧
    encode (r.build v) = r.pattern ||| countField (argOf v % 2 ^ r.layout.argBits) := by
  simp [opcodeMap, encode, Instr.wellFormed, Layout.argBits, bit_ksrcField, bit_ivsrcField, n4Field_eq, n6Field_eq,
    Nat.mod_one, Nat.mod_lt]

theorem decode_encode_shaFinal {n : Nat} (hn : n < 64) : decode (encode (.shaFinal n)) = .ok (.shaFinal n) := by
  have hr : opcodeMap[4] ∈ opcodeMap := List.getElem_mem _
  obtain ⟨-, harg, -⟩ := fields_or_countField (op := 0x12#32) (n := n) (by decide) (by omega)
  calc decode (encode (.shaFinal n))
      = .ok (.shaFinal (n6Field (encode (.shaFinal n)))) := decode_of_selects hr (selects_or_countField hr hn)
    _ = .ok (.shaFinal n) := by rw [n6Field_eq, encode, harg, Nat.mod_eq_of_lt hn]

theorem decode_encode_pad {n : Nat} (hn : n < 16) : decode (encode (.pad n)) = .ok (.pad n) := by
  have hr : opcodeMap[8] ∈ opcodeMap := List.getElem_mem _
  obtain ⟨-, harg, -⟩ := fields_or_countField (op := 0x30#32) (n := n) (by decide) (by omega)
  calc decode (encode (.pad n))
      = .ok (.pad (n4Field (encode (.pad n)))) := decode_of_selects hr (selects_or_countField hr hn)
    _ = .ok (.pad n) := by rw [n4Field_eq, encode, harg, Nat.mod_eq_of_lt hn]

end Sys2Proof

open Sys2Proof Sys2Proof.Machine

/-- Settles O29: a word without a count is one of finitely many, and a count that fits its field comes back from it. -/
theorem decodeUndoesEncode : Obligations.DecodeUndoesEncode := by
  intro i wf
  cases i with
  | shaFinal n => exact decode_encode_shaFinal (by simpa [Instr.wellFormed] using wf)
  | pad n => exact decode_encode_pad (by simpa [Instr.wellFormed] using wf)
  | keyExpand src | cbcEncStart src => cases src <;> rfl
  | _ => rfl

/-- Settles O30: the selecting row leaves no bit of the word but its match value and the ARG bits that its command
keeps. -/
theorem encodeUndoesDecode : Obligations.EncodeUndoesDecode := by
  intro v i hd
  obtain ⟨r, hr, hv, rfl⟩ := decode_eq_ok_iff.1 hd
  obtain ⟨hop, harg, hrsvd⟩ := (selects_iff hr v).1 hv
  obtain ⟨wf, henc⟩ := encode_build v r hr
  refine ⟨wf, BitVec.eq_of_toNat_eq ?_⟩
  rw [henc, Nat.mod_eq_of_lt harg, toNat_or_countField (pattern_lt r hr) (argOf_lt v), toNat_eq_fields v, hop, hrsvd,
    Nat.mul_zero, Nat.add_zero]

/-- Settles O31: the rows' match values differ, and a selected word has its row's in OP. -/
theorem atMostOneRowMatches : Obligations.AtMostOneRowMatches := by
  intro v j k hj hk hjv hkv
  have same := selecting_row_unique (List.getElem_mem hj) (List.getElem_mem hk) hjv hkv
  exact (patterns_nodup.of_map _).getElem_inj_iff.1 same

/-- Settles O32: a word that is none of the three cases is selected by its opcode's row; any other completes with
ILLCMD. -/
theorem illegalWordsAreTheThreeCases : Obligations.IllegalWordsAreTheThreeCases := by
  refine fun v => ⟨illegal_iff v, fun e s illegal => ?_⟩
  obtain ⟨i, legal, -⟩ | ⟨-, -, completes⟩ := execute_cases v s
  · rw [illegal] at legal
    nomatch legal
  · exact completes

/-- Settles O33: the legal words are those of commands, and the illegal ones are evaluated. -/
theorem writtenOutWordsDecode : Obligations.WrittenOutWordsDecode :=
  ⟨decodeUndoesEncode (.shaFinal 3) rfl, decodeUndoesEncode (.shaFinal 63) rfl, decodeUndoesEncode (.pad 5) rfl,
    decodeUndoesEncode (.keyExpand .hash) rfl, decodeUndoesEncode (.cbcEncStart .iv) rfl,
    decodeUndoesEncode .cbcDecBlock rfl, decodeUndoesEncode .nop rfl, rfl, rfl, rfl⟩
end

section
/-! The bytes of a register group (R15, R66) and the host statement `load` (R98). -/

namespace Sys2Proof.Machine

open Sys2Proof.Statements

/-! ### Words and bytes (R15) -/

/-- BE32 as a number: each byte counts 256 times the next. -/
theorem be32_toNat (a b c d : Byte) :
    (be32 a b c d).toNat = a.toNat * 2 ^ 24 + b.toNat * 2 ^ 16 + c.toNat * 2 ^ 8 + d.toNat := by
  simp only [be32, toNat_append_eq_add]
  omega

theorem toList_getD_of_lt {n i : Nat} (b : Vector Byte n) (h : i < n) : b.toList.getD i 0#8 = b[i] := by
  simp [h]

/-- The four bytes of register j of a group give it back: WORDS undoes BYTES, read as a list. -/
theorem be32_bytesOf {k : Nat} (r : Vector Word k) (j : Fin k) :
    be32 ((bytesOf r).toList.getD (4 * j.val) 0#8) ((bytesOf r).toList.getD (4 * j.val + 1) 0#8)
      ((bytesOf r).toList.getD (4 * j.val + 2) 0#8) ((bytesOf r).toList.getD (4 * j.val + 3) 0#8) = r[j.val] := by
  rw [toList_getD_of_lt _ (by omega), toList_getD_of_lt _ (by omega), toList_getD_of_lt _ (by omega),
    toList_getD_of_lt _ (by omega), ← wordsOf_getElem _ _ j.isLt, wordsOf_bytesOf]

/-! ### Register groups as fields of the block (R21, R38-R46) -/

/-- Register k of a group, in the map of R21. -/
def Group.reg : (g : Group) → Fin g.size → Reg
  | .key, k => .key k
  | .din, k => .din k
  | .dout, k => .dout k
  | .iv, k => .iv k
  | .chain, k => .chain k
  | .msg, k => .msg k
  | .hash, k => .hash k
  | .rk, k => .rk k

/-- The words that a group holds. -/
def Device.group (d : Device) : (g : Group) → Vector Word g.size
  | .key => d.key
  | .din => d.din
  | .dout => d.dout
  | .iv => d.iv
  | .chain => d.chain
  | .msg => d.msg
  | .hash => d.hash
  | .rk => d.rk

/-- The block with other words in one group. -/
def Device.withGroup (d : Device) : (g : Group) → Vector Word g.size → Device
  | .key, x => { d with key := x }
  | .din, x => { d with din := x }
  | .dout, x => { d with dout := x }
  | .iv, x => { d with iv := x }
  | .chain, x => { d with chain := x }
  | .msg, x => { d with msg := x }
  | .hash, x => { d with hash := x }
  | .rk, x => { d with rk := x }

theorem Group.offset_reg (g : Group) (k : Fin g.size) : (g.reg k).offset = groupOffset g.base k := by cases g <;> rfl

@[simp] theorem Device.group_withGroup (d : Device) (g : Group) (x : Vector Word g.size) :
    (d.withGroup g x).group g = x := by cases g <;> rfl

@[simp] theorem Device.withGroup_withGroup (d : Device) (g : Group) (x y : Vector Word g.size) :
    (d.withGroup g x).withGroup g y = d.withGroup g y := by cases g <;> rfl

@[simp] theorem Device.withGroup_group (d : Device) (g : Group) : d.withGroup g (d.group g) = d := by cases g <;> rfl

@[simp] theorem Device.withGroup_busy (d : Device) (g : Group) (x : Vector Word g.size) :
    (d.withGroup g x).busy = d.busy := by cases g <;> rfl

/-- A group that `load` can name (R98): its registers hold what is written to them (R71). -/
def Group.Loadable (g : Group) : Prop := ∀ k, storesValue (g.reg k) = true

theorem writeReg_reg {g : Group} (hg : g.Loadable) (k : Fin g.size) (v : Word) (s : State) :
    (writeReg (g.reg k) v s).dev = s.dev.withGroup g ((s.dev.group g).set k v) := by
  cases g with
  | key | din | iv | msg => rfl
  | _ => nomatch hg k

/-! ### The writes of `load` (R98) -/

/-- The host's write of one register of a group, while BUSY = 0. -/
theorem performAction_write_group_dev {g : Group} (hg : g.Loadable) (k : Fin g.size) {s : State}
    (hb : s.dev.busy = false) (v : Word) :
    (performAction (.write (groupOffset g.base k) 32 v) s).dev =
      s.dev.withGroup g ((s.dev.group g).set k v) := by
  rw [performAction_write_dev, ← g.offset_reg, busWrite_offset hb, writeReg_reg hg]

/-- The first m writes of a `load` change the group alone and leave their words in its first m registers. -/
theorem foldl_writes_dev {g : Group} (hg : g.Loadable) (w : Nat → Word) {s : State}
    (hb : s.dev.busy = false) {m : Nat} (hm : m ≤ g.size) :
    ∃ x : Vector Word g.size,
      (((List.range m).map fun j => Action.write (groupOffset g.base j) 32 (w j)).foldl
        (fun u a => performAction a u) s).dev = s.dev.withGroup g x ∧
      ∀ j (hj : j < g.size), j < m → x[j] = w j := by
  induction m with
  | zero => exact ⟨s.dev.group g, by simp, by simp⟩
  | succ m ih =>
    obtain ⟨x, hdev, hx⟩ := ih (by omega)
    refine ⟨x.set m (w m) hm, ?_, fun j hj hjm => ?_⟩
    · rw [List.range_succ, List.map_append, List.foldl_append, List.map_singleton, List.foldl_cons, List.foldl_nil,
        performAction_write_group_dev hg ⟨m, hm⟩ (by simpa [hdev] using hb), hdev, Device.withGroup_withGroup,
        Device.group_withGroup]
    · obtain hlt | rfl := Nat.lt_succ_iff_lt_or_eq.1 hjm
      · rw [Vector.getElem_set_ne hm hj (by omega), hx j hj hlt]
      · exact Vector.getElem_set_self hm

/-- All the writes of a `load` leave the group's registers with the words of its bytes. -/
theorem load_dev {g : Group} (hg : g.Loadable) (bs : List Byte) {s : State}
    (hb : s.dev.busy = false) :
    ((Stmt.load g bs).actions.foldl (fun u a => performAction a u) s).dev =
      s.dev.withGroup g (Vector.ofFn fun j => listWord bs j) := by
  obtain ⟨x, hdev, hx⟩ := foldl_writes_dev hg (listWord bs) hb le_rfl
  have words : x = Vector.ofFn fun j : Fin g.size => listWord bs j := by
    ext1 j hj
    rw [hx j hj hj, Vector.getElem_ofFn]
  exact words ▸ hdev

end Sys2Proof.Machine

open Sys2Proof.Machine

/-- Settles O44: `load` writes the registers of its group one after the other, each with the word of its four bytes. -/
theorem loadStoresTheBytes : Obligations.LoadStoresTheBytes :=
  ⟨be32_toNat, fun _ r j => be32_bytesOf r j, fun bs _ hb =>
    ⟨load_dev (g := .key) (fun _ => rfl) bs hb, load_dev (g := .din) (fun _ => rfl) bs hb,
      load_dev (g := .iv) (fun _ => rfl) bs hb, load_dev (g := .msg) (fun _ => rfl) bs hb⟩⟩
end

section
/-! The SHA-256 commands at the block (R116-R118). -/

namespace Sys2Proof.Machine

open Sys2Proof.Statements

theorem shaInit_completesWith (s : State) : CompletesWith .shaInit s .ok
    { s.dev with hash := sha256Init, shalen := 0#64, shaact := true } := rfl

theorem shaBlock_completesWith_seq {s : State} (h : s.dev.shaact = false) :
    CompletesWith .shaBlock s .seq s.dev := if_pos h

theorem shaBlock_completesWith {s : State} (h : s.dev.shaact = true) : CompletesWith .shaBlock s .ok
    { s.dev with hash := compress s.dev.hash (bytesOf s.dev.msg), shalen := s.dev.shalen + 512#64 } :=
  if_neg (by simp [h])

theorem shaFinal_completesWith_seq (n : Nat) {s : State} (h : s.dev.shaact = false) :
    CompletesWith (.shaFinal n) s .seq s.dev := if_pos h

theorem shaFinal_completesWith (n : Nat) {s : State} (h : s.dev.shaact = true) : CompletesWith (.shaFinal n) s .ok
    { s.dev with
      hash := (padFinal ((bytesOf s.dev.msg).toList.take n) (s.dev.shalen + BitVec.ofNat 64 (8 * n))).foldl
        compress s.dev.hash
      shalen := s.dev.shalen + BitVec.ofNat 64 (8 * n), shaact := false } :=
  if_neg (by simp [h])

/-- The word of SHA_FINAL n as a number (R91, R92). -/
theorem encode_shaFinal {n : Nat} (hn : n < 64) : encode (.shaFinal n) = BitVec.ofNat 32 (0x12 + 256 * n) := by
  refine BitVec.eq_of_toNat_eq ?_
  rw [encode, toNat_or_countField (by decide) (by omega), BitVec.toNat_ofNat, BitVec.toNat_ofNat]
  omega

end Sys2Proof.Machine

open Sys2Proof Sys2Proof.Machine

/-- Settles O6: SHA_INIT writes constants, so that a second one finds them already there. -/
theorem shaInitStartsAMessage : Obligations.ShaInitStartsAMessage := by
  refine ⟨decodeUndoesEncode .shaInit rfl, shaInit_completesWith, fun s t h => ?_⟩
  obtain rfl := Host.Outcome.next.inj ((shaInit_completesWith s).symm.trans h)
  rfl

/-- Settles O7, by the two values of SHAACT. -/
theorem shaBlockAbsorbsOneBlock : Obligations.ShaBlockAbsorbsOneBlock :=
  ⟨decodeUndoesEncode .shaBlock rfl, fun _ => shaBlock_completesWith_seq, fun _ => shaBlock_completesWith⟩

/-- Settles O8: the word is the one that `encode` gives, and SHAACT decides between refusal and padding. -/
theorem shaFinalPadsAndEndsTheMessage : Obligations.ShaFinalPadsAndEndsTheMessage :=
  ⟨fun _ hn => encode_shaFinal hn ▸ decode_encode_shaFinal hn, fun n _ => shaFinal_completesWith_seq n,
    fun n _ _ => shaFinal_completesWith n⟩
end

section
/-! The message schedule (R113) and the rounds of the compression (R111, R114). -/

namespace Sys2Proof.Machine

open Sys2Proof.Statements

/-! ### The message schedule (R113) -/

/-- The word that a step appends (R113). -/
theorem scheduleStep_getD_length (w : List Word) : (scheduleStep w).getD w.length 0#32 =
    smallSigma1 (w.getD (w.length - 2) 0#32) + w.getD (w.length - 7) 0#32 +
      smallSigma0 (w.getD (w.length - 15) 0#32) + w.getD (w.length - 16) 0#32 := by
  simp [scheduleStep]

/-- The schedule as it stands before word t: t words, which the later steps leave, and one step gives word t. -/
theorem exists_schedulePrefix (m : Vector Byte 64) {t : Nat} (ht : 16 ≤ t) (ht' : t < 64) :
    ∃ w : List Word, w.length = t ∧ (∀ j < t, (schedule m).getD j 0#32 = w.getD j 0#32) ∧
      (schedule m).getD t 0#32 = (scheduleStep w).getD t 0#32 := by
  have len : (scheduleStep^[t - 16] (wordsOf (k := 16) m).toList).length = t := by
    rw [iterate_length scheduleStep_length, Vector.length_toList]
    omega
  have count : 48 = (63 - t).succ + (t - 16) := by omega
  have steps : schedule m =
      scheduleStep^[63 - t] (scheduleStep (scheduleStep^[t - 16] (wordsOf (k := 16) m).toList)) := by
    rw [schedule, count, Function.iterate_add_apply, Function.iterate_succ_apply]
  refine ⟨_, len, fun j hj => ?_, ?_⟩
  · rw [steps, ← Function.iterate_succ_apply, iterate_getD scheduleStep_append _ _ (len.symm ▸ hj)]
  · rw [steps, iterate_getD scheduleStep_append _ _ (by rw [scheduleStep_length, len]; omega)]

theorem schedule_getD_of_lt (m : Vector Byte 64) (t : Fin 16) : (schedule m).getD t.val 0#32 =
    be32 m[4 * t.val] m[4 * t.val + 1] m[4 * t.val + 2] m[4 * t.val + 3] := by
  rw [schedule, iterate_getD scheduleStep_append _ _ (by simp)]
  simp

/-! ### The constants (R111) -/

/-- The constants of the table are the fractional parts: below each stands the integer part c of its prime's root. -/
theorem sha256K_cubeRoot : ∀ t < 64, ∃ c < 7,
    (c * 2 ^ 32 + (sha256K.getD t 0#32).toNat) ^ 3 ≤ first64Primes.getD t 0 * 2 ^ 96 ∧
    first64Primes.getD t 0 * 2 ^ 96 < (c * 2 ^ 32 + (sha256K.getD t 0#32).toNat + 1) ^ 3 := by
  decide

theorem isRoundConstant_sha256K {t : Nat} (ht : t < 64) :
    IsRoundConstant (first64Primes.getD t 0) (sha256K.getD t 0#32) := by
  obtain ⟨c, -, below, above⟩ := sha256K_cubeRoot t ht
  exact ⟨_, below, above, by rw [Nat.mul_add_mod_self_right, Nat.mod_eq_of_lt (BitVec.isLt _)]⟩

/-! ### The rounds (R114) -/

/-- The working variables after t rounds. -/
def roundsUpTo (w : List Word) (x : Working) (t : Nat) : Working :=
  (List.range t).foldl (fun y t => shaRound y (sha256K.getD t 0#32) (w.getD t 0#32)) x

theorem shaRounds_eq_roundsUpTo (w : List Word) (x : Working) : shaRounds w x = roundsUpTo w x 64 := rfl

theorem roundsUpTo_succ (w : List Word) (x : Working) (t : Nat) : roundsUpTo w x (t + 1) =
    shaRound (roundsUpTo w x t) (sha256K.getD t 0#32) (w.getD t 0#32) := by
  simp [roundsUpTo, List.range_succ]

theorem shaRound_eq (x : Working) (k w : Word) : shaRound x k w =
    ⟨roundT1 x k w + roundT2 x, x.a, x.b, x.c, x.d + roundT1 x k w, x.e, x.f, x.g⟩ := rfl

end Sys2Proof.Machine

open Sys2Proof.Machine

/-- Settles O47: word t is appended to the first t words, and nothing changes them afterwards. -/
theorem messageScheduleSatisfiesItsRecurrence : Obligations.MessageScheduleSatisfiesItsRecurrence := by
  refine fun m => ⟨schedule_length m, schedule_getD_of_lt m, fun t ht ht' => ?_⟩
  obtain ⟨w, rfl, before, last⟩ := exists_schedulePrefix m ht (by omega : t < 64)
  simp only [last, scheduleStep_getD_length, before _ (by omega : w.length - 2 < w.length),
    before _ (by omega : w.length - 7 < w.length), before _ (by omega : w.length - 15 < w.length),
    before _ (by omega : w.length - 16 < w.length)]
  rfl

/-- Settles O60: the working variables after t rounds are the fold cut at t. -/
theorem compressionFollowsItsRounds : Obligations.CompressionFollowsItsRounds := by
  refine ⟨fun t => sha256K.getD t 0#32, fun _ => isRoundConstant_sha256K, fun h m => ?_⟩
  refine ⟨roundsUpTo (schedule m) ⟨h[0], h[1], h[2], h[3], h[4], h[5], h[6], h[7]⟩, rfl, fun t _ => ?_, ?_⟩
  · rw [roundsUpTo_succ, shaRound_eq]
  · simp only [compress, shaRounds_eq_roundsUpTo]
end

section
/-! Splitting bytes into 64-byte blocks, the padding (R115) and the host sequence of R119. -/

namespace Sys2Proof.Machine

/-! ### Blocks of 64 bytes (R115) -/

theorem length_drop_blocks64 (p : List Byte) : (p.drop (64 * (p.length / 64))).length = p.length % 64 := by
  rw [List.length_drop]
  omega

theorem blocks64_length (p : List Byte) : (blocks64 p).length = p.length / 64 := by simp [blocks64]

/-- Bytes beyond the first n do not count. -/
theorem bytesOfList_append_of_le {n : Nat} {p : List Byte} (h : n ≤ p.length) (q : List Byte) :
    bytesOfList n (p ++ q) = bytesOfList n p := by
  ext1 i hi
  simp only [bytesOfList_getElem, List.getD_append _ _ _ _ (hi.trans_le h)]

theorem bytesOfList_toList_take {n : Nat} {p : List Byte} (h : p.length ≤ n) :
    (bytesOfList n p).toList.take p.length = p := by
  refine List.ext_getElem (by simpa using h) fun i hi hi' => ?_
  simp [hi']

theorem bytesOfList_toList {n : Nat} {p : List Byte} (h : p.length = n) : (bytesOfList n p).toList = p := by
  have take := bytesOfList_toList_take h.le
  rwa [List.take_of_length_le (by simp [h])] at take

/-- The full blocks of p stay blocks when bytes are added, and its tail is taken up in the blocks after them. -/
theorem blocks64_append (p q : List Byte) :
    blocks64 (p ++ q) = blocks64 p ++ blocks64 (p.drop (64 * (p.length / 64)) ++ q) := by
  have count : (p ++ q).length / 64 = p.length / 64 + (p.drop (64 * (p.length / 64)) ++ q).length / 64 := by
    simp only [List.length_append, List.length_drop]
    omega
  simp only [blocks64]
  rw [count, List.range_add, List.map_append, List.map_map]
  refine congrArg₂ (· ++ ·) (List.map_congr_left fun j hj => ?_) (List.map_congr_left fun j _ => ?_)
  · have := List.mem_range.1 hj
    rw [List.drop_append_of_le_length (by omega), bytesOfList_append_of_le (by rw [List.length_drop]; omega)]
  · rw [Function.comp_apply, Nat.mul_add, ← List.drop_drop, List.drop_append_of_le_length (by omega)]

/-- Whole blocks hold the bytes they were split from. -/
theorem blocks64_flatMap_toList (k : Nat) (p : List Byte) (h : p.length = 64 * k) :
    (blocks64 p).flatMap (fun b => b.toList) = p := by
  induction k generalizing p with
  | zero => simp [blocks64, List.eq_nil_of_length_eq_zero h]
  | succ k ih =>
    have first : (p.take 64).length = 64 := by rw [List.length_take]; omega
    have one : blocks64 (p.take 64) = [bytesOfList 64 (p.take 64)] := by rw [blocks64, first]; rfl
    have bytes : (bytesOfList 64 (p.take 64)).toList = p.take 64 := bytesOfList_toList first
    calc (blocks64 p).flatMap (fun b => b.toList)
        = (blocks64 (p.take 64 ++ p.drop 64)).flatMap (fun b => b.toList) := by rw [List.take_append_drop]
      _ = p.take 64 ++ (blocks64 (p.drop 64)).flatMap (fun b => b.toList) := by
          rw [blocks64_append, one, first, List.drop_eq_nil_of_le (by omega), List.nil_append, List.flatMap_append,
            List.flatMap_singleton, bytes]
      _ = p := by rw [ih _ (by rw [List.length_drop]; omega), List.take_append_drop]

/-! ### The padding (R115) -/

theorem be64Bytes_eq (l : BitVec 64) :
    be64Bytes l = (List.range 8).map fun j => BitVec.ofNat 8 (l.toNat / 2 ^ (56 - 8 * j)) := by
  simp only [← Nat.shiftRight_eq_div_pow]
  rfl

theorem zeroFill_of_le {n : Nat} (h : n ≤ 63) : zeroFill n = if n ≤ 55 then 55 - n else 119 - n := by
  simp only [zeroFill]
  split <;> omega

/-- SHA-256's blocks of a message are its full blocks and then PadFinal of its tail (R115, R119). -/
theorem blocks64_shaPadded (m : List Byte) : blocks64 (shaPadded m) =
    blocks64 m ++ padFinal (m.drop (64 * (m.length / 64))) (BitVec.ofNat 64 (8 * m.length)) := by
  simp only [shaPadded, padFinal, zeroFill, length_drop_blocks64, List.append_assoc, blocks64_append m]

/-! ### The host sequence (R119) -/

theorem exec_shaInit_next (s : State) : ∃ t, exec .shaInit s = .next t ∧ t.dev.hash = sha256Init ∧
    t.dev.shalen = 0#64 ∧ t.dev.shaact = true :=
  ⟨_, shaInit_completesWith s, rfl, rfl, rfl⟩

@[simp] theorem withMsg_shaact (b : Vector Byte 64) (s : State) : (withMsg b s).dev.shaact = s.dev.shaact := by
  simp only [withMsg]

@[simp] theorem withMsg_hash (b : Vector Byte 64) (s : State) : (withMsg b s).dev.hash = s.dev.hash := by
  simp only [withMsg]

@[simp] theorem withMsg_shalen (b : Vector Byte 64) (s : State) : (withMsg b s).dev.shalen = s.dev.shalen := by
  simp only [withMsg]

@[simp] theorem bytesOf_withMsg (b : Vector Byte 64) (s : State) : bytesOf (withMsg b s).dev.msg = b :=
  bytesOf_wordsOf (k := 16) b

theorem exec_shaBlock_next {s : State} (act : s.dev.shaact = true) :
    ∃ t, exec .shaBlock s = .next t ∧ t.dev.hash = compress s.dev.hash (bytesOf s.dev.msg) ∧
      t.dev.shalen = s.dev.shalen + 512#64 ∧ t.dev.shaact = true :=
  ⟨_, shaBlock_completesWith act, rfl, rfl, act⟩

theorem exec_shaFinal_next (n : Nat) {s : State} (act : s.dev.shaact = true) :
    ∃ t, exec (.shaFinal n) s = .next t ∧ t.dev.err = .ok ∧
      t.dev.hash = (padFinal ((bytesOf s.dev.msg).toList.take n) (s.dev.shalen + BitVec.ofNat 64 (8 * n))).foldl
        compress s.dev.hash ∧
      t.dev.shalen = s.dev.shalen + BitVec.ofNat 64 (8 * n) ∧ t.dev.shaact = false :=
  ⟨_, shaFinal_completesWith n act, rfl, rfl, rfl, rfl⟩

/-- SHA_BLOCK after a load of MSG. -/
theorem exec_shaBlock_withMsg (b : Vector Byte 64) {s : State} (act : s.dev.shaact = true) :
    ∃ t, exec .shaBlock (withMsg b s) = .next t ∧ t.dev.hash = compress s.dev.hash b ∧
      t.dev.shalen = s.dev.shalen + 512#64 ∧ t.dev.shaact = true := by
  simpa using exec_shaBlock_next (s := withMsg b s) (by simpa using act)

/-- SHA_FINAL after a load of the tail x into MSG. -/
theorem exec_shaFinal_withMsg {x : List Byte} (hx : x.length ≤ 64) {s : State} (act : s.dev.shaact = true) :
    ∃ t, exec (.shaFinal x.length) (withMsg (bytesOfList 64 x) s) = .next t ∧ t.dev.err = .ok ∧
      t.dev.hash = (padFinal x (s.dev.shalen + BitVec.ofNat 64 (8 * x.length))).foldl compress s.dev.hash ∧
      t.dev.shalen = s.dev.shalen + BitVec.ofNat 64 (8 * x.length) ∧ t.dev.shaact = false := by
  simpa [bytesOfList_toList_take hx] using
    exec_shaFinal_next x.length (s := withMsg (bytesOfList 64 x) s) (by simpa using act)

/-- The blocks of the loop go into HASH one after the other, and each counts 512 bits. -/
theorem absorbBlocks_next (bs : List (Vector Byte 64)) {s : State} (act : s.dev.shaact = true) :
    ∃ t, absorbBlocks bs s = .next t ∧ t.dev.hash = bs.foldl compress s.dev.hash ∧
      t.dev.shalen = s.dev.shalen + BitVec.ofNat 64 (512 * bs.length) ∧ t.dev.shaact = true := by
  induction bs generalizing s with
  | nil => exact ⟨s, rfl, rfl, by simp, act⟩
  | cons b rest ih =>
    obtain ⟨u, hu, hash, shalen, act'⟩ := exec_shaBlock_withMsg b act
    obtain ⟨t, ht, hash', shalen', act''⟩ := ih act'
    refine ⟨t, ?_, ?_, ?_, act''⟩
    · rw [absorbBlocks, hu, andThen, ht]
    · rw [hash', hash, List.foldl_cons]
    · rw [shalen', shalen, List.length_cons, BitVec.add_assoc, ← BitVec.ofNat_add, Nat.mul_succ, Nat.add_comm]

end Sys2Proof.Machine

open Sys2Proof.Machine

/-- Settles O48: the padded tail fills whole blocks, and the blocks hold its bytes. -/
theorem finalPaddingHasItsShape : Obligations.FinalPaddingHasItsShape := by
  intro t l ht
  have len : (t ++ [0x80#8] ++ List.replicate (zeroFill t.length) 0x00#8 ++ be64Bytes l).length =
      64 * (if t.length ≤ 55 then 1 else 2) := by
    simp only [List.length_append, List.length_replicate, zeroFill_of_le ht, be64Bytes, List.length_cons,
      List.length_nil]
    split <;> omega
  refine ⟨?_, ?_⟩
  · rw [padFinal, blocks64_length, len, Nat.mul_div_cancel_left _ (by decide)]
  · rw [padFinal, blocks64_flatMap_toList _ _ len, zeroFill_of_le ht, be64Bytes_eq]

/-- Settles O49, by induction on the full blocks; the padded message is those and the padded tail. -/
theorem hashSequenceComputesSha256 : Obligations.HashSequenceComputesSha256 := by
  intro m s
  have tail := length_drop_blocks64 m
  obtain ⟨i, hi, hash, shalen, act⟩ := exec_shaInit_next s
  obtain ⟨u, hu, hash', shalen', act'⟩ := absorbBlocks_next (blocks64 m) act
  obtain ⟨t, ht, err, hash'', shalen'', act''⟩ :=
    exec_shaFinal_withMsg (x := m.drop (64 * (m.length / 64))) (by omega) act'
  have total : u.dev.shalen + BitVec.ofNat 64 (8 * (m.drop (64 * (m.length / 64))).length) =
      BitVec.ofNat 64 (8 * m.length) := by
    rw [shalen', shalen, BitVec.zero_add, ← BitVec.ofNat_add, blocks64_length, tail]
    congr 1
    omega
  refine ⟨t, ?_, err, ?_, shalen''.trans total, act''⟩
  · simp only [hashMessage, hi, hu, andThen, ← tail, ht]
  · rw [hash'', hash', hash, total, sha256, blocks64_shaPadded, List.foldl_append]
end

section
/-! KEY_EXPAND at the block (R145), and the steps that can change RK (R147). -/

namespace Sys2Proof.Machine

open Sys2Proof.Statements

/-! ### KEY_EXPAND (R145) -/

theorem keyExpand_completesWith_seq (src : KeySource) {s : State} (h : s.dev.mode ≠ .idle) :
    CompletesWith (.keyExpand src) s .seq s.dev := if_pos h

theorem keyExpand_completesWith (src : KeySource) {s : State} (h : s.dev.mode = .idle) :
    CompletesWith (.keyExpand src) s .ok { s.dev with rk := keyExpansion (keyBytes src s.dev), keyvalid := true } :=
  if_neg (not_not_intro h)

/-! ### What leaves RK (R147, R46) -/

/-- Of the commands' writes only those of CLEAR and KEY_EXPAND include RK. -/
theorem CommandWrites.writes_rk {i : Instr} {d d' : Device} {code : ErrCode} (h : CommandWrites i d code d')
    (hrk : d'.rk ≠ d.rk) : i = .clear ∨ ∃ src, i = .keyExpand src := by
  cases h with
  | clear => exact .inl rfl
  | keyExpand => exact .inr ⟨_, rfl⟩
  | _ => exact absurd rfl hrk

/-- An illegal word writes no data register (R242), so a word that changes RK decodes to a command that does. -/
theorem execute_writes_rk {v : Word} {s t : State} (h : execute v s = .next t) (hrk : t.dev.rk ≠ s.dev.rk) :
    decode v = .ok .clear ∨ ∃ src, decode v = .ok (.keyExpand src) := by
  obtain ⟨i, hd, he⟩ | ⟨e, -, he⟩ := execute_cases v s
  · obtain ⟨code, d, hw, ht⟩ := exec_writes (he.symm.trans h)
    rw [ht, Device.complete_rk] at hrk
    obtain rfl | ⟨src, rfl⟩ := hw.writes_rk hrk
    · exact .inl hd
    · exact .inr ⟨src, hd⟩
  · obtain rfl := Host.Outcome.next.inj (he.symm.trans h)
    exact absurd rfl hrk

/-- RK is read-only to the host, so that a write on the bus leaves it (R72). -/
theorem busWrite_rk (off : Offset) (size : Nat) (v : Word) (s : State) :
    (busWrite off size v s).2.dev.rk = s.dev.rk := by
  obtain ⟨-, hw⟩ | ⟨r, -, -, -, hw⟩ | ⟨r, -, -, -, hw⟩ := busWrite_cases off size v s
  · rw [hw]
  · rw [hw, discardWrite_dev]
  · obtain ⟨-, -, -, -, -, -, -, -, -, -, -, hrk⟩ := writeReg_readonly r v s
    rw [hw, hrk]

/-- Of the host's turns only a reset changes RK. -/
theorem hostTurn_writes_rk {a : Action} {rest : List Action} {s : State}
    (hrk : (hostTurn a rest s).dev.rk ≠ s.dev.rk) : ∃ c, a = .reset c := by
  unfold hostTurn at hrk
  cases a with
  | reset c => exact ⟨c, rfl⟩
  | write off size v => exact absurd (busWrite_rk off size v { s with script := rest, lat := s.lat - 1 }) hrk
  | read | check | poll => simp at hrk

end Sys2Proof.Machine

open Sys2Proof Sys2Proof.Machine

/-- Settles O9: MODE decides between refusal and expansion, and KSRC names the registers that the key is read from. -/
theorem keyExpandBuildsTheSchedule : Obligations.KeyExpandBuildsTheSchedule :=
  ⟨decodeUndoesEncode (.keyExpand .key) rfl, decodeUndoesEncode (.keyExpand .hash) rfl,
    fun src _ => keyExpand_completesWith_seq src, fun _ => keyExpand_completesWith .key,
    fun _ => keyExpand_completesWith .hash⟩

/-- Settles O25, by the three kinds of step. -/
theorem onlyKeyExpandClearAndResetChangeRk : Obligations.OnlyKeyExpandClearAndResetChangeRk := by
  intro s t h hrk
  obtain ⟨v, turn, pending, he⟩ | ⟨a, rest, turn, rfl⟩ | ⟨-, rfl⟩ := step_cases h
  · exact .inl ⟨turn, v, pending, execute_writes_rk he hrk⟩
  · obtain ⟨c, rfl⟩ := hostTurn_writes_rk hrk
    exact .inr ⟨c, rest, turn⟩
  · exact absurd rfl hrk
end

section
/-! The key schedule (R140-R143) as the recurrence of FIPS-197. -/

namespace Sys2Proof.Machine

/-! ### Lists that grow by one word a step -/

/-- Word i of a list grown word by word is the one that a step appends to the first i words, which stay as they are. -/
theorem exists_iteratePrefix {f : List Word → List Word} (hf : ∀ w, ∃ x, f w = w ++ [x]) (n : Nat) (w₀ : List Word)
    {i : Nat} (hi : w₀.length ≤ i) (hi' : i < w₀.length + n) :
    ∃ w : List Word, w.length = i ∧ (∀ j < i, (f^[n] w₀).getD j 0#32 = w.getD j 0#32) ∧
      (f^[n] w₀).getD i 0#32 = (f w).getD i 0#32 := by
  have length_step (w : List Word) : (f w).length = w.length + 1 := by
    obtain ⟨x, hx⟩ := hf w
    simp [hx]
  have length : (f^[i - w₀.length] w₀).length = i := by
    rw [iterate_length length_step]
    omega
  have steps : f^[n] w₀ = f^[n - (i - w₀.length) - 1] (f (f^[i - w₀.length] w₀)) := by
    rw [← Function.iterate_succ_apply, ← Function.iterate_add_apply]
    congr 1
    omega
  refine ⟨_, length, fun j hj => ?_, ?_⟩
  · rw [steps, ← Function.iterate_succ_apply, iterate_getD hf _ _ (length.symm ▸ hj)]
  · rw [steps, iterate_getD hf _ _ (by rw [length_step, length]; omega)]

/-! ### The words of the schedule (R143) -/

/-- A vector filled from a list of its length holds the list. -/
theorem toList_ofFn_getD {w : List Word} {n : Nat} (h : w.length = n) :
    (Vector.ofFn fun i : Fin n => w.getD i.val 0#32).toList = w := by
  refine List.ext_getElem (by simp [h]) fun i _ hi => ?_
  simp [hi]

/-- The 60 words are the eight key words and those of the 52 steps. -/
theorem keyExpansion_toList (k : Vector Byte 32) :
    (keyExpansion k).toList = expandStep^[52] (wordsOf (k := 8) k).toList :=
  toList_ofFn_getD (by rw [iterate_length expandStep_length, Vector.length_toList])

theorem keyExpansion_getD_of_lt (k : Vector Byte 32) (j : Fin 8) : (keyExpansion k).toList.getD j.val 0#32 =
    be32 k[4 * j.val] k[4 * j.val + 1] k[4 * j.val + 2] k[4 * j.val + 3] := by
  rw [keyExpansion_toList, iterate_getD expandStep_append _ _ (by simp)]
  simp

/-- The word that a step appends (R143). -/
theorem expandStep_getD_length (w : List Word) : (expandStep w).getD w.length 0#32 =
    w.getD (w.length - 8) 0#32 ^^^ expandTemp w.length (w.getD (w.length - 1) 0#32) := by
  simp [expandStep]

theorem keyExpansion_getD (k : Vector Byte 32) {i : Nat} (hi : 8 ≤ i) (hi' : i < 60) :
    (keyExpansion k).toList.getD i 0#32 = (keyExpansion k).toList.getD (i - 8) 0#32 ^^^
      expandTemp i ((keyExpansion k).toList.getD (i - 1) 0#32) := by
  rw [keyExpansion_toList]
  obtain ⟨w, rfl, before, last⟩ := exists_iteratePrefix expandStep_append 52 (wordsOf (k := 8) k).toList
    (by simpa using hi) (by simpa using hi')
  rw [last, expandStep_getD_length, before _ (by omega), before _ (by omega)]

/-! ### `temp` (R140-R143) -/

theorem subWord_be32 (a b c d : Byte) : subWord (be32 a b c d) = be32 (sbox a) (sbox b) (sbox c) (sbox d) := by
  obtain ⟨h0, h1, h2, h3⟩ := wordByte_be32 a b c d
  rw [subWord, h0, h1, h2, h3]

/-- One byte to the left is eight bits to the left (R141). -/
theorem rotWord_eq_rotateLeft (w : Word) : rotWord w = w.rotateLeft 8 := by
  refine BitVec.eq_of_getLsbD_eq fun i hi => ?_
  simp only [rotWord, be32, wordByte, BitVec.getLsbD_append, BitVec.getLsbD_extractLsb', BitVec.getLsbD_rotateLeft]
  interval_cases i <;> simp

/-- Rcon[j] is x^(j-1), and no power of x up to the sixth is reduced (R140). -/
theorem be32_rcon : ∀ j < 8, 1 ≤ j → be32 (rcon j) 0#8 0#8 0#8 = BitVec.ofNat 32 (2 ^ (j - 1) * 2 ^ 24) := by
  decide

theorem expandTemp_eq {i : Nat} (hi : 8 ≤ i) (hi' : i < 60) (prev : Word) : expandTemp i prev =
    if i % 8 = 0 then subWord (prev.rotateLeft 8) ^^^ BitVec.ofNat 32 (2 ^ (i / 8 - 1) * 2 ^ 24)
    else if i % 8 = 4 then subWord prev else prev := by
  rw [expandTemp, rotWord_eq_rotateLeft, be32_rcon _ (by omega) (by omega)]

end Sys2Proof.Machine

open Sys2Proof.Machine

/-- Settles O52: word i is appended to the first i words, which stay, and Rcon and RotWord are what R140 and R141 say. -/
theorem keyScheduleSatisfiesItsRecurrence : Obligations.KeyScheduleSatisfiesItsRecurrence := by
  refine ⟨subWord_be32, fun k => ⟨keyExpansion_getD_of_lt k, fun i hi hi' => ?_⟩⟩
  beta_reduce
  rw [keyExpansion_getD k hi (by omega), expandTemp_eq hi (by omega)]
end

section
/-! The field of R160: gmul as a sum over the bits, the laws of the product by induction over the polynomials in x. -/

namespace Sys2Proof.Machine

/-! ### The product by x -/

/-- The bytes that two conditions select add up: two equal ones cancel. -/
theorem ite_xor (p q : Bool) (m : Byte) :
    (if p ^^ q then m else 0x00#8) = (if p then m else 0x00#8) ^^^ (if q then m else 0x00#8) := by
  cases p <;> cases q <;> simp

theorem xtime_xor (a b : Byte) : xtime (a ^^^ b) = xtime a ^^^ xtime b := by
  simp only [xtime, BitVec.shiftLeft_xor_distrib, BitVec.getLsbD_xor, ite_xor]
  ac_rfl

@[simp] theorem xtime_zero : xtime 0x00#8 = 0x00#8 := rfl

theorem xtime_iterate_xor (n : Nat) (a b : Byte) : xtime^[n] (a ^^^ b) = xtime^[n] a ^^^ xtime^[n] b := by
  induction n generalizing a b with
  | zero => rfl
  | succ n ih => rw [Function.iterate_succ_apply, xtime_xor, ih]; rfl

/-! ### The product as a sum over the bits of the second factor -/

/-- The sum of R160 over the bits of b below n. -/
def productUpTo (a b : Byte) : Nat → Byte
  | 0 => 0x00#8
  | n + 1 => productUpTo a b n ^^^ if b.getLsbD n then xtime^[n] a else 0x00#8

theorem gmul_eq_productUpTo (a b : Byte) : gmul a b = productUpTo a b 8 := by
  suffices ∀ n, (List.range n).foldl (fun acc i => if b.getLsbD i then acc ^^^ xtime^[i] a else acc) 0x00#8 =
      productUpTo a b n from this 8
  intro n
  induction n with
  | zero => rfl
  | succ n ih =>
    rw [List.range_succ, List.foldl_append, ih, List.foldl_cons, List.foldl_nil, productUpTo]
    split <;> simp

theorem productUpTo_xor_left (a b c : Byte) (n : Nat) :
    productUpTo (a ^^^ b) c n = productUpTo a c n ^^^ productUpTo b c n := by
  induction n with
  | zero => simp [productUpTo]
  | succ n ih =>
    simp only [productUpTo, ih, xtime_iterate_xor]
    split
    · ac_rfl
    · simp

theorem productUpTo_xor_right (a b c : Byte) (n : Nat) :
    productUpTo a (b ^^^ c) n = productUpTo a b n ^^^ productUpTo a c n := by
  induction n with
  | zero => simp [productUpTo]
  | succ n ih =>
    simp only [productUpTo, ih, BitVec.getLsbD_xor, ite_xor]
    ac_rfl

theorem productUpTo_xtime_left (a b : Byte) (n : Nat) : productUpTo (xtime a) b n = xtime (productUpTo a b n) := by
  induction n with
  | zero => simp [productUpTo]
  | succ n ih =>
    simp only [productUpTo, ih, xtime_xor]
    split
    · rw [← Function.iterate_succ_apply, Function.iterate_succ_apply']
    · rfl

theorem gmul_xor_left (a b c : Byte) : gmul (a ^^^ b) c = gmul a c ^^^ gmul b c := by
  simp only [gmul_eq_productUpTo, productUpTo_xor_left]

theorem gmul_xor_right (a b c : Byte) : gmul a (b ^^^ c) = gmul a b ^^^ gmul a c := by
  simp only [gmul_eq_productUpTo, productUpTo_xor_right]

theorem gmul_xtime_left (a b : Byte) : gmul (xtime a) b = xtime (gmul a b) := by
  simp only [gmul_eq_productUpTo, productUpTo_xtime_left]

/-! ### The unit, and the bytes as polynomials in x -/

@[simp] theorem gmul_zero_right (a : Byte) : gmul a 0x00#8 = 0x00#8 := rfl

@[simp] theorem gmul_one_right (a : Byte) : gmul a 0x01#8 = a := BitVec.zero_xor

@[simp] theorem gmul_one_left : ∀ a : Byte, gmul 0x01#8 a = a := by decide

theorem gmul_two_right (a : Byte) : gmul a 0x02#8 = xtime a := BitVec.zero_xor

/-- Every byte is a polynomial in x: the sum of 0x01 multiplied by x some times. -/
theorem polynomial_induction {P : Byte → Prop} (zero : P 0x00#8) (one : P 0x01#8)
    (xor : ∀ a b, P a → P b → P (a ^^^ b)) (mul_x : ∀ a, P a → P (xtime a)) (a : Byte) : P a := by
  have power (n : Nat) : P (xtime^[n] 0x01#8) := by
    induction n with
    | zero => exact one
    | succ n ih => exact Function.iterate_succ_apply' xtime n _ ▸ mul_x _ ih
  have sum (n : Nat) : P (productUpTo 0x01#8 a n) := by
    induction n with
    | zero => exact zero
    | succ n ih =>
      refine xor _ _ ih ?_
      split
      · exact power n
      · exact zero
  rw [← gmul_one_left a, gmul_eq_productUpTo]
  exact sum 8

/-! ### The laws of the product -/

@[simp] theorem gmul_zero_left (a : Byte) : gmul 0x00#8 a = 0x00#8 := by
  simpa using gmul_xor_left 0x00#8 0x00#8 a

theorem gmul_xtime_right (a b : Byte) : gmul a (xtime b) = xtime (gmul a b) := by
  induction a using polynomial_induction with
  | zero => simp
  | one => simp
  | xor a a' ha ha' => rw [gmul_xor_left, ha, ha', gmul_xor_left, xtime_xor]
  | mul_x a ha => rw [gmul_xtime_left, ha, gmul_xtime_left]

theorem gmul_comm (a b : Byte) : gmul a b = gmul b a := by
  induction b using polynomial_induction with
  | zero => simp
  | one => simp
  | xor b b' hb hb' => rw [gmul_xor_right, hb, hb', gmul_xor_left]
  | mul_x b hb => rw [gmul_xtime_right, hb, gmul_xtime_left]

theorem gmul_assoc (a b c : Byte) : gmul (gmul a b) c = gmul a (gmul b c) := by
  induction c using polynomial_induction with
  | zero => simp
  | one => simp
  | xor c c' hc hc' => rw [gmul_xor_right, hc, hc', gmul_xor_right, gmul_xor_right]
  | mul_x c hc => rw [gmul_xtime_right, hc, gmul_xtime_right, gmul_xtime_right]

end Sys2Proof.Machine
end

section
/-! The S-boxes (R161-R163): the table gives each byte's inverse under Aff, and with it the inverses of the field. -/

namespace Sys2Proof.Machine

open Sys2Proof.Statements

/-- The affine map that undoes Aff (R161). -/
def invAff (b : Byte) : Byte := b.rotateLeft 1 ^^^ b.rotateLeft 3 ^^^ b.rotateLeft 6 ^^^ 0x05#8

theorem aff_invAff : ∀ b : Byte, aff (invAff b) = b := by decide

/-- With Aff taken off, the table S holds the inverse of each byte (R161, R162). -/
theorem gmul_invAff_sbox : ∀ a : Byte, a ≠ 0x00#8 → gmul a (invAff (sbox a)) = 0x01#8 := by decide

theorem gmul_inverse_unique {a b c : Byte} (hb : gmul a b = 0x01#8) (hc : gmul a c = 0x01#8) : b = c := by
  calc b = gmul (gmul a c) b := by rw [hc, gmul_one_left]
    _ = gmul (gmul a b) c := by rw [gmul_assoc, gmul_comm c, ← gmul_assoc]
    _ = c := by rw [hb, gmul_one_left]

theorem sbox_eq_aff_of_inverse {a b : Byte} (h : gmul a b = 0x01#8) : sbox a = aff b := by
  have nonzero : a ≠ 0x00#8 := by
    rintro rfl
    simp at h
  rw [gmul_inverse_unique h (gmul_invAff_sbox a nonzero), aff_invAff]

theorem invSbox_sbox : ∀ a : Byte, invSbox (sbox a) = a := by decide

theorem sbox_invSbox : ∀ a : Byte, sbox (invSbox a) = a := by decide

end Sys2Proof.Machine

open Sys2Proof.Machine

/-- Settles O50: the laws are proved over the polynomials in x, and the table S gives the inverses. -/
theorem gmulIsTheFieldProduct : Obligations.GmulIsTheFieldProduct :=
  ⟨gmul_comm, gmul_assoc, gmul_xor_right, gmul_one_right, gmul_two_right, fun a ha => ⟨_, gmul_invAff_sbox a ha⟩⟩

/-- Settles O51: a byte has one inverse, the one that S holds under Aff. -/
theorem sboxTablesMatchTheirDefinition : Obligations.SboxTablesMatchTheirDefinition :=
  ⟨rfl, fun _ _ => sbox_eq_aff_of_inverse, invSbox_sbox, sbox_invSbox⟩
end

section
/-! The transforms of the AES state (R165-R170): their entries, and each one's inverse. -/

namespace Sys2Proof.Machine

open Sys2Proof.Statements

/-- The byte of a block in the obligations and the entry of the AES state are the same (R164). -/
theorem cell_eq_entry : cell = entry := rfl

/-! ### SubBytes and ShiftRows (R165-R167) -/

@[simp] theorem invSubBytes_subBytes (s : Block) : invSubBytes (subBytes s) = s :=
  block_ext_entry fun r c => by simp [invSbox_sbox]

@[simp] theorem subBytes_invSubBytes (s : Block) : subBytes (invSubBytes s) = s :=
  block_ext_entry fun r c => by simp [sbox_invSbox]

@[simp] theorem invShiftRows_shiftRows (s : Block) : invShiftRows (shiftRows s) = s :=
  block_ext_entry fun r c => by simp

@[simp] theorem shiftRows_invShiftRows (s : Block) : shiftRows (invShiftRows s) = s :=
  block_ext_entry fun r c => by simp

/-! ### AddRoundKey (R170) -/

@[simp] theorem addRoundKey_addRoundKey (rk : Vector Word 60) (rnd : Fin 15) (s : Block) :
    addRoundKey rk rnd (addRoundKey rk rnd s) = s :=
  block_ext_entry fun r c => by simp

/-- The byte that AddRoundKey adds, as a number. -/
theorem wordByte_roundKey (rk : Vector Word 60) (n : Fin 15) (r c : Fin 4) :
    wordByte (rk[4 * n.val + c.val]'(by omega)) r.val = roundKeyByte rk n.val r c := by
  have index : 4 * n.val + c.val < 60 := by omega
  simp [roundKeyByte, wordByte, BitVec.extractLsb', Nat.shiftRight_eq_div_pow, index]

theorem entry_addRoundKey_eq (rk : Vector Word 60) (n : Fin 15) (s : Block) (r c : Fin 4) :
    entry (addRoundKey rk n s) r c = entry s r c ^^^ roundKeyByte rk n.val r c := by
  rw [entry_addRoundKey, wordByte_roundKey]

/-! ### The matrices of MixColumns (R168, R169) -/

theorem entry_mixColumns (s : Block) : entry (mixColumns s) = mixCell mixMatrix (entry s) := by
  funext r c
  rw [mixColumns, entry_ofEntries]
  fin_cases r <;> rfl

theorem entry_invMixColumns (s : Block) : entry (invMixColumns s) = mixCell invMixMatrix (entry s) := by
  funext r c
  rw [invMixColumns, entry_ofEntries]
  fin_cases r <;> rfl

/-- The product of matrices over the field is associative. -/
theorem mixCell_mixCell (m m' x : Fin 4 → Fin 4 → Byte) : mixCell m (mixCell m' x) = mixCell (mixCell m m') x := by
  funext r c
  simp only [mixCell, gmul_xor_left, gmul_xor_right, gmul_assoc]
  ac_rfl

/-- A matrix whose product with m is the unit matrix undoes m. -/
theorem mixCell_cancel {m' m : Fin 4 → Fin 4 → Byte} (h : ∀ r c, mixCell m' m r c = if r = c then 0x01#8 else 0x00#8)
    (x : Fin 4 → Fin 4 → Byte) : mixCell m' (mixCell m x) = x := by
  rw [mixCell_mixCell]
  funext r c
  rw [mixCell]
  simp only [h]
  fin_cases r <;> simp

theorem invMixMatrix_mixMatrix : ∀ r c, mixCell invMixMatrix mixMatrix r c = if r = c then 0x01#8 else 0x00#8 := by
  decide

theorem mixMatrix_invMixMatrix : ∀ r c, mixCell mixMatrix invMixMatrix r c = if r = c then 0x01#8 else 0x00#8 := by
  decide

@[simp] theorem invMixColumns_mixColumns (s : Block) : invMixColumns (mixColumns s) = s :=
  block_ext_entry fun r c => by
    rw [entry_invMixColumns, entry_mixColumns, mixCell_cancel invMixMatrix_mixMatrix]

@[simp] theorem mixColumns_invMixColumns (s : Block) : mixColumns (invMixColumns s) = s :=
  block_ext_entry fun r c => by
    rw [entry_mixColumns, entry_invMixColumns, mixCell_cancel mixMatrix_invMixMatrix]

end Sys2Proof.Machine
end

section
/-! Cipher and InvCipher undo each other, round by round (R171, R172, R175). -/

namespace Sys2Proof.Machine

/-- The rounds f leave no trace behind h, the steps that follow the last of them, when the rounds g come after in the
reverse order and each undoes its own. -/
theorem foldl_reverse_undoes {f g : Block → Fin 15 → Block} {h : Block → Block} (undo : ∀ s n, g (h (f s n)) n = h s)
    (ns : List (Fin 15)) (s : Block) : ns.reverse.foldl g (h (ns.foldl f s)) = h s := by
  induction ns generalizing s with
  | nil => rfl
  | cons n ns ih =>
    rw [List.reverse_cons, List.foldl_append, List.foldl_cons (f := f), ih]
    exact undo s n

theorem decRound_encRound (rk : Vector Word 60) (s : Block) (n : Fin 15) :
    decRound rk (shiftRows (subBytes (encRound rk s n))) n = shiftRows (subBytes s) := by
  rw [decRound, encRound, invShiftRows_shiftRows, invSubBytes_subBytes, addRoundKey_addRoundKey,
    invMixColumns_mixColumns]

theorem encRound_decRound (rk : Vector Word 60) (s : Block) (n : Fin 15) :
    encRound rk (invSubBytes (invShiftRows (decRound rk s n))) n = invSubBytes (invShiftRows s) := by
  rw [decRound, encRound, subBytes_invSubBytes, shiftRows_invShiftRows, mixColumns_invMixColumns,
    addRoundKey_addRoundKey]

theorem invCipher_cipher (b : Block) (rk : Vector Word 60) : invCipher (cipher b rk) rk = b := by
  have rounds := foldl_reverse_undoes (h := fun s => shiftRows (subBytes s)) (decRound_encRound rk)
    [1, 2, 3, 4, 5, 6, 7, 8, 9, 10, 11, 12, 13] (addRoundKey rk 0 b)
  change List.foldl _ _ [13, 12, 11, 10, 9, 8, 7, 6, 5, 4, 3, 2, 1] = _ at rounds
  simp only [invCipher, cipher, addRoundKey_addRoundKey, rounds, invShiftRows_shiftRows, invSubBytes_subBytes]

theorem cipher_invCipher (b : Block) (rk : Vector Word 60) : cipher (invCipher b rk) rk = b := by
  have rounds := foldl_reverse_undoes (h := fun s => invSubBytes (invShiftRows s)) (encRound_decRound rk)
    [13, 12, 11, 10, 9, 8, 7, 6, 5, 4, 3, 2, 1] (addRoundKey rk 14 b)
  change List.foldl _ _ [1, 2, 3, 4, 5, 6, 7, 8, 9, 10, 11, 12, 13] = _ at rounds
  simp only [invCipher, cipher, addRoundKey_addRoundKey, rounds, shiftRows_invShiftRows, subBytes_invSubBytes]

end Sys2Proof.Machine

open Sys2Proof.Machine

/-- Settles O53: each transform has its inverse, so that the rounds undo each other from the last to the first. -/
theorem invCipherUndoesCipher : Obligations.InvCipherUndoesCipher :=
  fun b rk => ⟨invCipher_cipher b rk, cipher_invCipher b rk⟩
end

section
/-! AES_ENC and AES_DEC at the block (R173, R174), and the rounds of both ciphers entry by entry (R171, R172). -/

namespace Sys2Proof.Machine

open Sys2Proof.Statements

/-! ### The commands (R173, R174) -/

theorem aesEnc_completesWith_nokey {s : State} (h : s.dev.keyvalid = false) :
    CompletesWith .aesEnc s .nokey s.dev := if_pos h

theorem aesEnc_completesWith {s : State} (h : s.dev.keyvalid = true) : CompletesWith .aesEnc s .ok
    { s.dev with dout := fourWords (cipher (bytesOf s.dev.din) s.dev.rk) } :=
  if_neg (by simp [h])

theorem aesDec_completesWith_nokey {s : State} (h : s.dev.keyvalid = false) :
    CompletesWith .aesDec s .nokey s.dev := if_pos h

theorem aesDec_completesWith {s : State} (h : s.dev.keyvalid = true) : CompletesWith .aesDec s .ok
    { s.dev with dout := fourWords (invCipher (bytesOf s.dev.din) s.dev.rk) } :=
  if_neg (by simp [h])

/-! ### The rounds (R171, R172) -/

theorem entry_encRound (rk : Vector Word 60) (s : Block) (n : Fin 15) (r c : Fin 4) : entry (encRound rk s n) r c =
    mixCell mixMatrix (fun i j => sbox (entry s i (j + i))) r c ^^^ roundKeyByte rk n.val r c := by
  rw [encRound, entry_addRoundKey_eq, entry_mixColumns]
  simp [mixCell]

theorem entry_decRound (rk : Vector Word 60) (s : Block) (n : Fin 15) (r c : Fin 4) : entry (decRound rk s n) r c =
    mixCell invMixMatrix (fun i j => invSbox (entry s i (j - i)) ^^^ roundKeyByte rk n.val i j) r c := by
  rw [decRound, entry_invMixColumns]
  simp only [mixCell, entry_addRoundKey_eq, entry_invSubBytes, entry_invShiftRows]

/-- The state of Cipher after AddRoundKey(n) (R171). -/
def encStateAfter (b : Block) (rk : Vector Word 60) : Nat → Block
  | 0 => addRoundKey rk 0 b
  | n + 1 => encRound rk (encStateAfter b rk n) (Fin.ofNat 15 (n + 1))

/-- The state of InvCipher after k rounds, the last of them round 14 - k (R172). -/
def decStateAfter (b : Block) (rk : Vector Word 60) : Nat → Block
  | 0 => addRoundKey rk 14 b
  | k + 1 => decRound rk (decStateAfter b rk k) (Fin.ofNat 15 (13 - k))

theorem cipher_eq_encStateAfter (b : Block) (rk : Vector Word 60) :
    cipher b rk = addRoundKey rk 14 (shiftRows (subBytes (encStateAfter b rk 13))) := rfl

theorem invCipher_eq_decStateAfter (b : Block) (rk : Vector Word 60) :
    invCipher b rk = addRoundKey rk 0 (invSubBytes (invShiftRows (decStateAfter b rk 13))) := rfl

theorem cipherRounds_cipher (b : Block) (rk : Vector Word 60) : CipherRounds b rk (cipher b rk) := by
  refine ⟨fun n => entry (encStateAfter b rk n), ?first, ?round, ?last⟩
  case first => exact fun r c => entry_addRoundKey_eq rk 0 b r c
  case round =>
    intro n hn hn' r c
    obtain ⟨m, rfl⟩ := Nat.exists_eq_add_of_le' hn
    have index : (Fin.ofNat 15 (m + 1)).val = m + 1 := Nat.mod_eq_of_lt (by omega)
    simp only [encStateAfter, entry_encRound, index, Nat.add_sub_cancel]
  case last =>
    intro r c
    rw [cell_eq_entry, cipher_eq_encStateAfter, entry_addRoundKey_eq, entry_shiftRows, entry_subBytes]
    rfl

theorem invCipherRounds_invCipher (b : Block) (rk : Vector Word 60) : InvCipherRounds b rk (invCipher b rk) := by
  refine ⟨fun n => entry (decStateAfter b rk (14 - n)), ?first, ?round, ?last⟩
  case first => exact fun r c => entry_addRoundKey_eq rk 14 b r c
  case round =>
    intro n hn hn' r c
    have before : 14 - (n + 1) = 13 - n := by omega
    have after : 14 - n = (13 - n) + 1 := by omega
    have index : (Fin.ofNat 15 (13 - (13 - n))).val = n := by
      rw [Nat.sub_sub_self hn']
      exact Nat.mod_eq_of_lt (by omega)
    simp only [before, after, decStateAfter, entry_decRound, index]
  case last =>
    intro r c
    rw [cell_eq_entry, invCipher_eq_decStateAfter, entry_addRoundKey_eq, entry_invSubBytes, entry_invShiftRows]
    rfl

end Sys2Proof.Machine

open Sys2Proof Sys2Proof.Machine

/-- Settles O10: KEYVALID decides between refusal and Cipher, whose states between the rounds are those of its fold. -/
theorem aesEncEncryptsDin : Obligations.AesEncEncryptsDin :=
  ⟨decodeUndoesEncode .aesEnc rfl, fun _ => aesEnc_completesWith_nokey, fun _ => aesEnc_completesWith,
    cipherRounds_cipher⟩

/-- Settles O11: as for AES_ENC, with the states of InvCipher counted from round 14 down. -/
theorem aesDecDecryptsDin : Obligations.AesDecDecryptsDin :=
  ⟨decodeUndoesEncode .aesDec rfl, fun _ => aesDec_completesWith_nokey, fun _ => aesDec_completesWith,
    invCipherRounds_invCipher⟩
end

section
/-! PKCS#7 padding (R190-R195): a block byte by byte, a message as its blocks, and the commands PAD and UNPAD. -/

namespace Sys2Proof.Machine

open Sys2Proof.Statements

/-! ### A padded block (R190) -/

theorem padBlock_toList {t : List Byte} {n : Nat} (hn : n < 16) (ht : t.length = n) :
    (padBlock t n).toList = t ++ List.replicate (16 - n) (BitVec.ofNat 8 (16 - n)) :=
  bytesOfList_toList (by rw [List.length_append, List.length_replicate]; omega)

theorem padBlock_getElem {t : List Byte} {n i : Nat} (ht : t.length = n) (hi : i < 16) :
    (padBlock t n)[i] = if h : i < n then t[i] else BitVec.ofNat 8 (16 - n) := by
  rw [padBlock, bytesOfList_getElem]
  split
  case isTrue h => rw [List.getD_append _ _ _ _ (by omega), List.getD_eq_getElem]
  case isFalse h => rw [List.getD_append_right _ _ _ _ (by omega), List.getD_replicate _ (by omega)]

/-- The bytes of a padded block from n on are its pad value. -/
theorem padBlock_getElem_toNat {t : List Byte} {n i : Nat} (hn : n < 16) (ht : t.length = n) (hi : i < 16)
    (h : n ≤ i) : (padBlock t n)[i].toNat = 16 - n := by
  rw [padBlock_getElem ht hi, dif_neg (by omega), BitVec.toNat_ofNat]
  omega

/-! ### The padding check (R192) -/

theorem unpadOK_iff (x : Block) : unpadOK x = true ↔ PaddingHolds x := by
  simp only [unpadOK, Bool.and_eq_true, Bool.or_eq_true, List.all_eq_true, List.mem_finRange, decide_eq_true_eq,
    beq_iff_eq, true_imp_iff, and_assoc, or_iff_not_imp_left, Nat.not_lt]
  rfl

theorem unpadCount_toNat {x : Block} (h : PaddingHolds x) : (unpadCount x).toNat = 16 - x[15].toNat := by
  obtain ⟨low, -, -⟩ := h
  rw [unpadCount, padValue, BitVec.toNat_ofNat]
  omega

theorem paddingHolds_padBlock {t : List Byte} {n : Nat} (hn : n < 16) (ht : t.length = n) :
    PaddingHolds (padBlock t n) := by
  have value := padBlock_getElem_toNat hn ht (i := 15) (by omega) (by omega)
  refine ⟨by omega, by omega, fun i hi => ?_⟩
  exact (padBlock_getElem_toNat hn ht i.isLt (by omega)).trans value.symm

/-- The last p bytes of a block, as the source takes them off its list. -/
theorem paddingHolds_iff_drop (x : Block) : PaddingHolds x ↔ 1 ≤ x[15].toNat ∧ x[15].toNat ≤ 16 ∧
    ∀ b ∈ x.toList.drop (16 - x[15].toNat), b.toNat = x[15].toNat := by
  refine and_congr_right fun _ => and_congr_right fun high => ?_
  rw [List.forall_mem_iff_forall_getElem]
  constructor
  · intro h i hi
    rw [List.length_drop, Vector.length_toList] at hi
    simpa using h ⟨16 - x[15].toNat + i, by omega⟩ (by simp)
  · intro h i hi
    have byte := h (i.val - (16 - x[15].toNat)) (by simp; omega)
    simpa only [List.getElem_drop, Vector.getElem_toList, Nat.add_sub_cancel' hi, Fin.getElem_fin] using byte

/-! ### A message and its blocks (R191, R192) -/

/-- Bytes that fill up the tail of p make one more block of it. -/
theorem blocks16_append_fill {p q : List Byte} (h : p.length % 16 + q.length = 16) :
    blocks16 (p ++ q) = blocks16 p ++ [bytesOfList 16 (p.drop (16 * (p.length / 16)) ++ q)] := by
  have count : (p ++ q).length / 16 = p.length / 16 + 1 := by
    rw [List.length_append]
    omega
  rw [blocks16, blocks16, count, List.range_succ, List.map_append, List.map_singleton,
    List.drop_append_of_le_length (by omega)]
  refine congrArg (· ++ _) (List.map_congr_left fun j hj => ?_)
  have := List.mem_range.1 hj
  rw [List.drop_append_of_le_length (by omega), bytesOfList_append_of_le (by rw [List.length_drop]; omega)]

theorem padMessage_length (p : List Byte) : (padMessage p).length = 16 * (p.length / 16 + 1) := by
  rw [padMessage, List.length_append, List.length_replicate]
  omega

/-- The pad bytes of a message are those of the block that its tail makes (R191). -/
theorem blocks16_padMessage (p : List Byte) : blocks16 (padMessage p) =
    blocks16 p ++ [padBlock (p.drop (16 * (p.length / 16))) (p.length % 16)] :=
  blocks16_append_fill (by rw [List.length_replicate]; omega)

theorem blocksBytes_length (bs : List Block) : (blocksBytes bs).length = 16 * bs.length := by
  simp [blocksBytes, Nat.mul_comm]

theorem blocksBytes_append_singleton (bs : List Block) (x : Block) :
    blocksBytes (bs ++ [x]) = blocksBytes bs ++ x.toList := by
  simp [blocksBytes]

/-- The source's unpad of whole blocks looks at the last block alone (R192). -/
theorem unpadMessage_blocksBytes (bs : List Block) (x : Block) : unpadMessage (blocksBytes (bs ++ [x])) =
    if unpadOK x then some (blocksBytes bs ++ x.toList.take (16 - x[15].toNat)) else none := by
  have last : (blocksBytes bs ++ x.toList).getLastD 0#8 = x[15] := by
    simp [List.getLastD_eq_getLast?, List.getLast?_eq_getElem?]
  have length : (blocksBytes bs ++ x.toList).length = (blocksBytes bs).length + 16 := by simp
  have whole := blocksBytes_length bs
  have cut (high : x[15].toNat ≤ 16) :
      (blocksBytes bs).length + 16 - x[15].toNat = (blocksBytes bs).length + (16 - x[15].toNat) := by omega
  simp only [unpadMessage, blocksBytes_append_singleton, last, length]
  refine ite_congr (propext ?_) (fun ok => ?_) fun _ => rfl
  · rw [unpadOK_iff, paddingHolds_iff_drop]
    constructor
    · rintro ⟨-, -, low, high, all⟩
      rw [cut high, List.drop_length_add_append] at all
      exact ⟨low, high, by simpa using all⟩
    · rintro ⟨low, high, all⟩
      rw [cut high, List.drop_length_add_append]
      exact ⟨by omega, by omega, low, high, by simpa using all⟩
  · obtain ⟨-, high, -⟩ := (unpadOK_iff x).1 ok
    rw [cut high, List.take_length_add_append]

/-! ### The commands (R193, R194) -/

theorem pad_completesWith (n : Nat) (s : State) : CompletesWith (.pad n) s .ok
    { s.dev with dout := fourWords (padBlock ((bytesOf (k := 4) s.dev.din).toList.take n) n) } := rfl

theorem unpad_completesWith {s : State} (h : PaddingHolds (bytesOf s.dev.din)) : CompletesWith .unpad s .ok
    { s.dev with dout := s.dev.din, cnt := unpadCount (bytesOf s.dev.din) } :=
  if_pos ((unpadOK_iff _).2 h)

theorem unpad_completesWith_badpad {s : State} (h : ¬ PaddingHolds (bytesOf s.dev.din)) :
    CompletesWith .unpad s .badpad { s.dev with dout := #v[0#32, 0#32, 0#32, 0#32], cnt := 0#4 } :=
  if_neg (mt (unpadOK_iff _).1 h)

/-- The word of PAD n as a number (R91, R92). -/
theorem encode_pad {n : Nat} (hn : n < 16) : encode (.pad n) = BitVec.ofNat 32 (0x30 + 256 * n) := by
  refine BitVec.eq_of_toNat_eq ?_
  rw [encode, toNat_or_countField (by decide) (by omega), BitVec.toNat_ofNat, BitVec.toNat_ofNat]
  omega

/-- The n bytes of DIN that PAD n keeps. -/
theorem length_take_bytesOf {n : Nat} (hn : n < 16) (r : Vector Word 4) : ((bytesOf r).toList.take n).length = n := by
  rw [List.length_take, Vector.length_toList]
  omega

theorem bytesOf_fourWords (x : Block) : bytesOf (fourWords x) = x := bytesOf_wordsOf (k := 4) x

theorem exec_pad_next (n : Nat) (s : State) : ∃ t, exec (.pad n) s = .next t ∧
    bytesOf (k := 4) t.dev.dout = padBlock ((bytesOf (k := 4) s.dev.din).toList.take n) n :=
  ⟨_, pad_completesWith n s, bytesOf_fourWords _⟩

/-- UNPAD of the block x that stood in DOUT, copied into DIN (R195). -/
theorem exec_unpad_copied_next {t : State} {x : Block} (hx : bytesOf t.dev.dout = x) (h : PaddingHolds x) :
    ∃ u, exec .unpad { t with dev := { t.dev with din := t.dev.dout } } = .next u ∧ u.dev.err = .ok ∧
      u.dev.cnt.toNat = 16 - x[15].toNat ∧ bytesOf u.dev.dout = x := by
  subst hx
  exact ⟨_, unpad_completesWith h, rfl, unpadCount_toNat h, rfl⟩

end Sys2Proof.Machine

open Sys2Proof Sys2Proof.Machine

/-- Settles O12: the word is the one that `encode` gives, and DOUT is PadBlock of DIN's first n bytes. -/
theorem padWritesTheDataThenThePadBytes : Obligations.PadWritesTheDataThenThePadBytes := by
  refine ⟨fun n hn => encode_pad hn ▸ decode_encode_pad hn, fun n s hn => ⟨_, pad_completesWith n s, fun i => ?_⟩⟩
  have length := length_take_bytesOf hn s.dev.din
  rw [Fin.getElem_fin, padBlock_getElem length i.isLt]
  split <;> simp

/-- Settles O13, by whether the padding holds. -/
theorem unpadChecksThePaddingOfDin : Obligations.UnpadChecksThePaddingOfDin :=
  ⟨decodeUndoesEncode .unpad rfl, fun _ h => ⟨_, unpadCount_toNat h, unpad_completesWith h⟩,
    fun _ => unpad_completesWith_badpad⟩

/-- Settles O54: the pad bytes of a padded block are all its pad value, and UNPAD of the block that PAD left in DOUT
counts the bytes before them. -/
theorem paddedBlocksUnpad : Obligations.PaddedBlocksUnpad := by
  refine ⟨fun n t hn ht => ⟨padBlock_toList hn ht, paddingHolds_padBlock hn ht, ?_, ?_⟩, fun n s hn => ?_⟩
  · rw [padBlock_getElem_toNat hn ht (by omega) (by omega)]
    omega
  · rw [padBlock_toList hn ht, List.take_left' ht]
  · have length := length_take_bytesOf hn s.dev.din
    obtain ⟨t, ht, block⟩ := exec_pad_next n s
    obtain ⟨u, hu, err, count, block'⟩ := exec_unpad_copied_next block (paddingHolds_padBlock hn length)
    refine ⟨t, u, ht, hu, err, ?_, ?_⟩
    · rw [count, padBlock_getElem_toNat hn length (by omega) (by omega)]
      omega
    · rw [block', padBlock_toList hn length, List.take_left' length]

/-- Settles O55: padding fills up the tail of a message to one more block, and the source's unpad of whole blocks is
UnpadOK of the last one. -/
theorem messagePaddingWorksOnTheLastBlock : Obligations.MessagePaddingWorksOnTheLastBlock := by
  refine ⟨fun p => ⟨padMessage_length p, blocks16_padMessage p⟩, unpadOK_iff, fun bs x => ?_⟩
  rw [unpadMessage_blocksBytes, ← unpadOK_iff]
  cases unpadOK x <;> simp
end

section
/-! A message as a list of 16-byte blocks, its padding (R191, R192), and the source's chaining of blocks (R210). -/

namespace Sys2Proof.Machine

/-! ### A message and its blocks -/

@[simp] theorem blocksBytes_cons (b : Block) (bs : List Block) : blocksBytes (b :: bs) = b.toList ++ blocksBytes bs :=
  List.flatMap_cons

theorem blocks16_length (p : List Byte) : (blocks16 p).length = p.length / 16 := by simp [blocks16]

/-- The first block of p, and the blocks of the rest. -/
theorem blocks16_eq_cons {p : List Byte} (h : 16 ≤ p.length) :
    blocks16 p = bytesOfList 16 p :: blocks16 (p.drop 16) := by
  have count : p.length / 16 = (p.drop 16).length / 16 + 1 := by
    rw [List.length_drop]
    omega
  simp only [blocks16]
  rw [count, List.range_succ_eq_map, List.map_cons, List.map_map]
  refine congrArg (_ :: ·) (List.map_congr_left fun j _ => ?_)
  rw [Function.comp_apply, List.drop_drop, Nat.mul_succ, Nat.add_comm]

/-- The first block of a byte sequence is the one of its first 16 bytes. -/
theorem bytesOfList_take (p : List Byte) : bytesOfList 16 (p.take 16) = bytesOfList 16 p := by
  ext1 i hi
  simp [List.getD_eq_getElem?_getD, List.getElem?_take_of_lt hi]

theorem bytesOfList_toList_append (b : Block) (p : List Byte) : bytesOfList 16 (b.toList ++ p) = b := by
  ext1 i hi
  rw [bytesOfList_getElem, List.getD_append _ _ _ _ (by simpa using hi), toList_getD_of_lt b hi]

/-- The bytes of blocks split into those blocks again. -/
theorem blocks16_blocksBytes (bs : List Block) : blocks16 (blocksBytes bs) = bs := by
  induction bs with
  | nil => rfl
  | cons b bs ih =>
    rw [blocksBytes_cons, blocks16_eq_cons (by simp), bytesOfList_toList_append, List.drop_left' (by simp), ih]

theorem blocksBytes_injective : Function.Injective blocksBytes :=
  Function.LeftInverse.injective blocks16_blocksBytes

/-- Whole blocks hold the bytes they were split from. -/
theorem blocksBytes_blocks16 {k : Nat} {p : List Byte} (h : p.length = 16 * k) : blocksBytes (blocks16 p) = p := by
  induction k generalizing p with
  | zero => rw [List.eq_nil_of_length_eq_zero h]; rfl
  | succ k ih =>
    have first : (bytesOfList 16 p).toList = p.take 16 := by
      rw [← bytesOfList_take, bytesOfList_toList (by rw [List.length_take]; omega)]
    rw [blocks16_eq_cons (by omega), blocksBytes_cons, first, ih (by rw [List.length_drop]; omega),
      List.take_append_drop]

/-! ### The padding of a message (R191, R192) -/

theorem getLastD_append_replicate {α : Type} (p : List α) {n : Nat} (hn : n ≠ 0) (a d : α) :
    (p ++ List.replicate n a).getLastD d = a := by
  rw [List.getLastD_eq_getLast?, List.getLast?_append_of_ne_nil _ (by simpa using hn),
    List.getLast?_replicate, if_neg hn]
  rfl

/-- The source's unpad takes off exactly what its pad puts on. -/
theorem unpadMessage_eq_some_iff {q p : List Byte} : unpadMessage q = some p ↔ q = padMessage p := by
  constructor
  · intro h
    simp only [unpadMessage, Option.ite_none_right_eq_some, Option.some.injEq, List.all_eq_true, beq_iff_eq] at h
    generalize hn : (q.getLastD 0#8).toNat = n at h
    obtain ⟨⟨length, whole, low, high, all⟩, rfl⟩ := h
    have cut : 16 - (q.take (q.length - n)).length % 16 = n := by rw [List.length_take]; omega
    have pads : q.drop (q.length - n) = List.replicate n (BitVec.ofNat 8 n) := by
      refine List.eq_replicate_iff.2 ⟨by rw [List.length_drop]; omega, fun b hb => BitVec.eq_of_toNat_eq ?_⟩
      rw [all b hb, BitVec.toNat_ofNat]
      omega
    rw [padMessage, cut, ← pads, List.take_append_drop]
  · rintro rfl
    have length := padMessage_length p
    have pads : (BitVec.ofNat 8 (16 - p.length % 16)).toNat = 16 - p.length % 16 := by
      rw [BitVec.toNat_ofNat]
      omega
    have last : (padMessage p).getLastD 0#8 = BitVec.ofNat 8 (16 - p.length % 16) :=
      getLastD_append_replicate _ (by omega) _ _
    have data : (padMessage p).length - (16 - p.length % 16) = p.length := by omega
    simp only [unpadMessage, last, pads, data]
    rw [padMessage, List.take_left, List.drop_left, ← padMessage, if_pos]
    refine ⟨by omega, by omega, by omega, by omega, List.all_eq_true.2 fun b hb => ?_⟩
    rw [List.eq_of_mem_replicate hb, pads, beq_self_eq_true]

/-! ### Chaining (R210) -/

theorem cbcChain_length (rk : Vector Word 60) (prev : Block) (bs : List Block) :
    (cbcChain rk prev bs).length = bs.length := by
  induction bs generalizing prev with
  | nil => rfl
  | cons b bs ih => rw [cbcChain, List.length_cons, List.length_cons, ih]

/-- The source's decryption undoes its encryption, block by block. -/
theorem cbcUnchain_cbcChain (rk : Vector Word 60) (prev : Block) (bs : List Block) :
    cbcUnchain rk prev (cbcChain rk prev bs) = bs := by
  induction bs generalizing prev with
  | nil => rfl
  | cons b bs ih => rw [cbcChain, cbcUnchain, invCipher_cipher, xorBlock_cancel, ih]

theorem cbcChain_cbcUnchain (rk : Vector Word 60) (prev : Block) (cs : List Block) :
    cbcChain rk prev (cbcUnchain rk prev cs) = cs := by
  induction cs generalizing prev with
  | nil => rfl
  | cons c cs ih => rw [cbcUnchain, cbcChain, xorBlock_cancel, cipher_invCipher, ih]

/-- With one first block, other ciphertext blocks give other plaintext blocks. -/
theorem cbcUnchain_injective (rk : Vector Word 60) (prev : Block) : Function.Injective (cbcUnchain rk prev) :=
  Function.LeftInverse.injective (cbcChain_cbcUnchain rk prev)

/-- With the same ciphertext blocks, another first block gives another plaintext. -/
theorem cbcUnchain_prev_unique {rk : Vector Word 60} {prev prev' : Block} {cs : List Block} (hcs : cs ≠ [])
    (h : cbcUnchain rk prev cs = cbcUnchain rk prev' cs) : prev = prev' := by
  cases cs with
  | nil => exact absurd rfl hcs
  | cons c cs =>
    have head : xorBlock (invCipher c rk) prev = xorBlock (invCipher c rk) prev' := (List.cons.inj h).1
    rw [← xorBlock_cancel_left (invCipher c rk) prev, head, xorBlock_cancel_left]

/-! ### The source's functions on a ciphertext (R210) -/

/-- The source's decryption succeeds exactly on a legal length whose blocks decrypt to the padded plaintext. -/
theorem sourceDecrypt_eq_ok_iff {rk : Vector Word 60} {c p : List Byte} : sourceDecrypt rk c = .ok p ↔
    (32 ≤ c.length ∧ (c.length - 16) % 16 = 0) ∧
      blocksBytes (cbcUnchain rk (bytesOfList 16 c) (blocks16 (c.drop 16))) = padMessage p := by
  rw [← unpadMessage_eq_some_iff, sourceDecrypt]
  split
  case isTrue short => exact ⟨nofun, fun ⟨legal, _⟩ => absurd legal short⟩
  case isFalse legal =>
    rw [and_iff_right (not_not.1 legal)]
    cases unpadMessage (blocksBytes (cbcUnchain rk (bytesOfList 16 c) (blocks16 (c.drop 16)))) <;> simp

theorem length_blocksBytes_sourceEncrypt (rk : Vector Word 60) (iv : Block) (p : List Byte) :
    (blocksBytes (sourceEncrypt rk iv p)).length = 16 * (p.length / 16 + 2) := by
  rw [blocksBytes_length, sourceEncrypt, List.length_cons, cbcChain_length, blocks16_length,
    padMessage_length]
  omega

/-- R210(c), of the source's functions: decryption returns what was encrypted. -/
theorem sourceDecrypt_sourceEncrypt (rk : Vector Word 60) (iv : Block) (p : List Byte) :
    sourceDecrypt rk (blocksBytes (sourceEncrypt rk iv p)) = .ok p := by
  have length := length_blocksBytes_sourceEncrypt rk iv p
  refine sourceDecrypt_eq_ok_iff.2 ⟨by omega, ?_⟩
  rw [sourceEncrypt, blocksBytes_cons, bytesOfList_toList_append, List.drop_left' (by simp), blocks16_blocksBytes,
    cbcUnchain_cbcChain, blocksBytes_blocks16 (padMessage_length p)]

/-- Ciphertexts of one length that decrypt to the same plaintext and agree in their first block, or in all the others,
are the same. -/
theorem eq_of_sourceDecrypt_eq_ok {rk : Vector Word 60} {c c' p : List Byte} (h : sourceDecrypt rk c = .ok p)
    (h' : sourceDecrypt rk c' = .ok p) (agree : c.take 16 = c'.take 16 ∨ c.drop 16 = c'.drop 16) : c = c' := by
  obtain ⟨⟨long, whole⟩, plain⟩ := sourceDecrypt_eq_ok_iff.1 h
  obtain ⟨⟨long', whole'⟩, plain'⟩ := sourceDecrypt_eq_ok_iff.1 h'
  have same := blocksBytes_injective (plain.trans plain'.symm)
  have blocks : bytesOfList 16 c = bytesOfList 16 c' ∧ blocks16 (c.drop 16) = blocks16 (c'.drop 16) := by
    rcases agree with first | rest
    · have iv : bytesOfList 16 c = bytesOfList 16 c' := by rw [← bytesOfList_take, first, bytesOfList_take]
      rw [iv] at same
      exact ⟨iv, cbcUnchain_injective _ _ same⟩
    · rw [← rest] at same
      refine ⟨cbcUnchain_prev_unique ?_ same, congrArg blocks16 rest⟩
      rw [blocks16_eq_cons (by rw [List.length_drop]; omega)]
      exact List.cons_ne_nil _ _
  have rebuild {q : List Byte} (hq : 32 ≤ q.length ∧ (q.length - 16) % 16 = 0) :
      blocksBytes (bytesOfList 16 q :: blocks16 (q.drop 16)) = q := by
    rw [← blocks16_eq_cons (by omega), blocksBytes_blocks16 (k := q.length / 16) (by omega)]
  rw [← rebuild ⟨long, whole⟩, ← rebuild ⟨long', whole'⟩, blocks.1, blocks.2]

end Sys2Proof.Machine

open Sys2Proof.Machine

/-- Settles O59: one changed byte leaves either the first block or all the others as they were, and then only the valid
ciphertext decrypts to the plaintext. -/
theorem tamperedCiphertextNeverGivesThePlaintext : Obligations.TamperedCiphertextNeverGivesThePlaintext := by
  intro rk iv p j b hj hb tampered
  generalize hc : blocksBytes (sourceEncrypt rk iv p) = c at *
  have valid : sourceDecrypt rk c = .ok p := hc ▸ sourceDecrypt_sourceEncrypt rk iv p
  have agree : (c.set j b).take 16 = c.take 16 ∨ (c.set j b).drop 16 = c.drop 16 := by
    rcases Nat.lt_or_ge j 16 with first | rest
    · exact .inr (List.drop_set_of_lt first)
    · exact .inl (List.take_set_of_le rest)
  have same := eq_of_sourceDecrypt_eq_ok tampered valid agree
  refine hb ?_
  conv_rhs => rw [← same]
  simp [hj]
end

section
/-! The CBC session commands at the block (R201-R206). -/

namespace Sys2Proof.Machine

open Sys2Proof.Statements

/-! ### The counts of a session (R201, R204, R229) -/

theorem encBlocks_toNat (len : Word) : (encBlocks len).toNat = len.toNat / 16 + 1 := by
  have := len.isLt
  rw [encBlocks, BitVec.toNat_ofNat]
  omega

theorem encTail_toNat (len : Word) : (encTail len).toNat = len.toNat % 16 := by
  rw [encTail, BitVec.toNat_ofNat]
  omega

theorem decBlocks_toNat (len : Word) : (decBlocks len).toNat = (len.toNat - 16) / 16 := by
  have := len.isLt
  rw [decBlocks, BitVec.toNat_ofNat]
  omega

theorem decLengthOK_iff (len : Word) : decLengthOK len = true ↔ 32 ≤ len.toNat ∧ (len.toNat - 16) % 16 = 0 := by
  simp [decLengthOK]

theorem blkrem_sub_one_toNat {b : BitVec 29} (h : 1 < b.toNat) : (b - 1#29).toNat = b.toNat - 1 := by
  bv_omega

/-! ### CBC_ENC_START (R201, R202) -/

theorem cbcEncStart_completesWith_seq (src : IvSource) {s : State} (h : s.dev.mode ≠ .idle) :
    CompletesWith (.cbcEncStart src) s .seq s.dev := if_pos h

theorem cbcEncStart_completesWith_nokey (src : IvSource) {s : State} (idle : s.dev.mode = .idle)
    (key : s.dev.keyvalid = false) : CompletesWith (.cbcEncStart src) s .nokey s.dev :=
  (if_neg (by simp [idle])).trans (if_pos key)

theorem cbcEncStart_iv_completesWith {s : State} (idle : s.dev.mode = .idle) (key : s.dev.keyvalid = true) :
    CompletesWith (.cbcEncStart .iv) s .ok (openEncryption s.dev.iv s.dev) :=
  (if_neg (by simp [idle])).trans (if_neg (by simp [key]))

theorem exec_cbcEncStart_rng_of_some {s : State} {iv : Block} (idle : s.dev.mode = .idle) (key : s.dev.keyvalid = true)
    (answer : Config.entropy s.draws.entropy = some iv) : exec (.cbcEncStart .rng) s = .next
      { s with
        dev := ended .ok (openEncryption (fourWords iv) s.dev)
        draws := { s.draws with entropy := s.draws.entropy + 1 } } := by
  refine (if_neg (by simp [idle])).trans ((if_neg (by simp [key])).trans ?_)
  rw [requestEntropy, answer]
  rfl

theorem exec_cbcEncStart_rng_of_none {s : State} (idle : s.dev.mode = .idle) (key : s.dev.keyvalid = true)
    (answer : Config.entropy s.draws.entropy = none) : exec (.cbcEncStart .rng) s = .next
      { s with dev := ended .rngfail s.dev, draws := { s.draws with entropy := s.draws.entropy + 1 } } := by
  refine (if_neg (by simp [idle])).trans ((if_neg (by simp [key])).trans ?_)
  rw [requestEntropy, answer]
  rfl

/-! ### CBC_ENC_BLOCK (R203) -/

theorem cbcEncBlock_completesWith_seq {s : State} (h : s.dev.mode ≠ .enc) :
    CompletesWith .cbcEncBlock s .seq s.dev := if_pos h

theorem cbcEncBlock_completesWith_more {s : State} (enc : s.dev.mode = .enc) (more : s.dev.blkrem.toNat ≠ 1) :
    CompletesWith .cbcEncBlock s .ok
      { s.dev with
        dout := fourWords (encOutput s.dev), chain := fourWords (encOutput s.dev), blkrem := s.dev.blkrem - 1#29 } :=
  (if_neg (by simp [enc])).trans (if_neg (mt (blkrem_sub_one_eq_zero_iff _).1 more))

theorem cbcEncBlock_completesWith_last {s : State} (enc : s.dev.mode = .enc) (last : s.dev.blkrem.toNat = 1) :
    CompletesWith .cbcEncBlock s .ok
      { s.dev with
        dout := fourWords (encOutput s.dev), chain := fourWords (encOutput s.dev), blkrem := 0#29, mode := .idle
        tail := 0#4 } := by
  have zero := (blkrem_sub_one_eq_zero_iff _).2 last
  rw [← zero]
  exact (if_neg (by simp [enc])).trans (if_pos zero)

theorem encOutput_of_more {d : Device} (more : 1 < d.blkrem.toNat) :
    encOutput d = cipher (xorBlock (bytesOf d.din) (bytesOf d.chain)) d.rk := by
  rw [encOutput, encWindow, if_pos more, dinBytes, chainBytes]

theorem encOutput_of_last {d : Device} (last : d.blkrem.toNat = 1) : encOutput d = cipher (xorBlock
    (padBlock ((bytesOf (k := 4) d.din).toList.take d.tail.toNat) d.tail.toNat) (bytesOf d.chain)) d.rk := by
  rw [encOutput, encWindow, if_neg (by omega), dinBytes, chainBytes]

/-! ### CBC_DEC_START (R204) -/

theorem cbcDecStart_completesWith_seq {s : State} (h : s.dev.mode ≠ .idle) :
    CompletesWith .cbcDecStart s .seq s.dev := if_pos h

theorem cbcDecStart_completesWith_nokey {s : State} (idle : s.dev.mode = .idle) (key : s.dev.keyvalid = false) :
    CompletesWith .cbcDecStart s .nokey s.dev :=
  (if_neg (by simp [idle])).trans (if_pos key)

theorem cbcDecStart_completesWith_badlen {s : State} (idle : s.dev.mode = .idle) (key : s.dev.keyvalid = true)
    (len : ¬(32 ≤ s.dev.len.toNat ∧ (s.dev.len.toNat - 16) % 16 = 0)) : CompletesWith .cbcDecStart s .badlen s.dev :=
  (if_neg (by simp [idle])).trans ((if_neg (by simp [key])).trans
    (if_pos (Bool.eq_false_iff.2 (mt (decLengthOK_iff _).1 len))))

theorem cbcDecStart_completesWith {s : State} (idle : s.dev.mode = .idle) (key : s.dev.keyvalid = true)
    (len : 32 ≤ s.dev.len.toNat ∧ (s.dev.len.toNat - 16) % 16 = 0) : CompletesWith .cbcDecStart s .ok
      { s.dev with chain := s.dev.iv, blkrem := decBlocks s.dev.len, tail := 0#4, cnt := 0#4, mode := .dec } :=
  (if_neg (by simp [idle])).trans ((if_neg (by simp [key])).trans (if_neg (by simp [(decLengthOK_iff _).2 len])))

/-! ### CBC_DEC_BLOCK (R205) -/

theorem cbcDecBlock_completesWith_seq {s : State} (h : s.dev.mode ≠ .dec) :
    CompletesWith .cbcDecBlock s .seq s.dev := if_pos h

theorem cbcDecBlock_completesWith_more {s : State} (dec : s.dev.mode = .dec) (more : s.dev.blkrem.toNat ≠ 1) :
    CompletesWith .cbcDecBlock s .ok
      { s.dev with dout := fourWords (decOutput s.dev), chain := s.dev.din, blkrem := s.dev.blkrem - 1#29 } :=
  (if_neg (by simp [dec])).trans (if_pos (mt (blkrem_sub_one_eq_zero_iff _).1 more))

theorem cbcDecBlock_completesWith_last {s : State} (dec : s.dev.mode = .dec) (last : s.dev.blkrem.toNat = 1)
    (pad : PaddingHolds (decOutput s.dev)) : CompletesWith .cbcDecBlock s .ok
      { s.dev with
        dout := fourWords (decOutput s.dev), chain := s.dev.din, blkrem := 0#29, mode := .idle
        cnt := unpadCount (decOutput s.dev) } := by
  have zero := (blkrem_sub_one_eq_zero_iff _).2 last
  rw [← zero]
  exact (if_neg (by simp [dec])).trans ((if_neg (by simp [zero])).trans (if_pos ((unpadOK_iff _).2 pad)))

theorem cbcDecBlock_completesWith_badpad {s : State} (dec : s.dev.mode = .dec) (last : s.dev.blkrem.toNat = 1)
    (pad : ¬ PaddingHolds (decOutput s.dev)) : CompletesWith .cbcDecBlock s .badpad
      { s.dev with
        dout := #v[0#32, 0#32, 0#32, 0#32], chain := s.dev.din, blkrem := 0#29, mode := .idle, cnt := 0#4 } := by
  have zero := (blkrem_sub_one_eq_zero_iff _).2 last
  rw [← zero]
  exact (if_neg (by simp [dec])).trans ((if_neg (by simp [zero])).trans (if_neg (mt (unpadOK_iff _).1 pad)))

end Sys2Proof.Machine

open Sys2Proof Sys2Proof.Machine

/-- Settles O14, by the checks in order, IVSRC, and the answer of the entropy port. -/
theorem cbcEncStartOpensASession : Obligations.CbcEncStartOpensASession := by
  refine ⟨decodeUndoesEncode (.cbcEncStart .rng) rfl, decodeUndoesEncode (.cbcEncStart .iv) rfl,
    fun src _ => cbcEncStart_completesWith_seq src, fun src _ => cbcEncStart_completesWith_nokey src,
    fun s idle key => ⟨encBlocks s.dev.len, encTail s.dev.len, encBlocks_toNat _, encTail_toNat _,
      cbcEncStart_iv_completesWith idle key, ?_⟩⟩
  cases answer : Config.entropy s.draws.entropy with
  | none => exact exec_cbcEncStart_rng_of_none idle key answer
  | some iv => exact exec_cbcEncStart_rng_of_some idle key answer

/-- Settles O15: BLKREM decides whether the window is all of DIN or the padded tail. -/
theorem cbcEncBlockChainsOneWindow : Obligations.CbcEncBlockChainsOneWindow := by
  refine ⟨decodeUndoesEncode .cbcEncBlock rfl, fun _ => cbcEncBlock_completesWith_seq, fun s enc more => ?_,
    fun a b i => xorBlock_getElem a b i i.isLt, fun s enc last => ?_⟩
  · exact ⟨_, _, blkrem_sub_one_toNat more, congrArg _ (encOutput_of_more more),
      cbcEncBlock_completesWith_more enc (by omega)⟩
  · refine ⟨_, _, fun i => ?_, congrArg _ (encOutput_of_last last), cbcEncBlock_completesWith_last enc last⟩
    rw [Fin.getElem_fin, padBlock_getElem (length_take_bytesOf s.dev.tail.isLt _) i.isLt]
    split <;> simp

/-- Settles O16, by the checks in order; 32 or more bytes are a multiple of 16 when those after the first 16 are. -/
theorem cbcDecStartChecksTheLength : Obligations.CbcDecStartChecksTheLength :=
  ⟨decodeUndoesEncode .cbcDecStart rfl, fun _ => cbcDecStart_completesWith_seq,
    fun _ => cbcDecStart_completesWith_nokey,
    fun _ idle key len => cbcDecStart_completesWith_badlen idle key (by omega),
    fun _ idle key long whole => ⟨_, decBlocks_toNat _, cbcDecStart_completesWith idle key (by omega)⟩⟩

/-- Settles O17: BLKREM decides whether the block is unpadded, and its padding whether it is released. -/
theorem cbcDecBlockChainsOneBlock : Obligations.CbcDecBlockChainsOneBlock := by
  refine ⟨decodeUndoesEncode .cbcDecBlock rfl, fun _ => cbcDecBlock_completesWith_seq, ?_⟩
  rintro s x dec rfl
  exact ⟨fun more => ⟨_, blkrem_sub_one_toNat more, cbcDecBlock_completesWith_more dec (by omega)⟩,
    fun last pad => ⟨_, unpadCount_toNat pad, cbcDecBlock_completesWith_last dec last pad⟩,
    cbcDecBlock_completesWith_badpad dec⟩

/-- Settles O18: the meaning of CBC_ABORT has no case. -/
theorem cbcAbortEndsTheSession : Obligations.CbcAbortEndsTheSession :=
  ⟨decodeUndoesEncode .cbcAbort rfl, fun _ => rfl⟩
end

section
/-! The CBC session as a state machine (R200), and the commands that leave it alone (R207, R121). -/

namespace Sys2Proof.Machine

open Sys2Proof.Statements

/-! ### The state machine (R200) -/

/-- A START command is refused with an error, and a BLOCK command outside its own session. -/
theorem sessionAfter_of_refused {i : Instr} {d : Device} {code : ErrCode} (h : Refuses d code i) :
    sessionAfter i d code = d.mode ∧ code ≠ .ok := by
  cases i with
  | cbcEncStart | cbcDecStart => rcases h with ⟨rfl, -⟩ | ⟨rfl, -⟩ | ⟨rfl, -⟩ <;> exact ⟨rfl, nofun⟩
  | cbcEncBlock | cbcDecBlock => obtain ⟨rfl, other⟩ := h; exact ⟨if_neg fun own => other own.1, nofun⟩
  | nop | clear | shaInit | pad | unpad | cbcAbort => exact h.elim
  | shaBlock | shaFinal | keyExpand | aesEnc | aesDec => exact ⟨rfl, h.1 ▸ nofun⟩

theorem CommandWrites.mode_eq_sessionAfter {i : Instr} {d d' : Device} {code : ErrCode}
    (h : CommandWrites i d code d') : d'.mode = sessionAfter i d code := by
  cases h with
  | refused h => exact (sessionAfter_of_refused h).1.symm
  | encBlock _ more | decBlock _ more => exact (if_neg fun last => more last.2).symm
  | encBlockLast own last | decBlockLast own last | decBlockBad own last => exact (if_pos ⟨own, last⟩).symm
  | _ => rfl

/-- A START command succeeds only with no session open. -/
theorem CommandWrites.idle_of_start {i : Instr} {d d' : Device} (h : CommandWrites i d .ok d')
    (start : i = .cbcDecStart ∨ ∃ src, i = .cbcEncStart src) : d.mode = .idle := by
  cases h with
  | refused h => exact absurd rfl (sessionAfter_of_refused h).2
  | encStartIv idle | encStartRng idle | decStart idle => exact idle
  | _ => simp at start

/-! ### Commands of the other units (R207, R121) -/

/-- The blocks d and d' agree in what a BLOCK command reads: the session's fields, the schedule and DIN. -/
structure SameSession (d d' : Device) : Prop where
  mode : d'.mode = d.mode
  blkrem : d'.blkrem = d.blkrem
  tail : d'.tail = d.tail
  chain : d'.chain = d.chain
  rk : d'.rk = d.rk
  din : d'.din = d.din

theorem CommandWrites.sameSession {j : Instr} {d d' : Device} {code : ErrCode} (h : CommandWrites j d code d')
    (hj : leavesSession j = true) : SameSession d (d'.complete code) := by
  cases h with
  | clear | keyExpand | encStartIv | encStartRng | encBlock | encBlockLast | decStart | decBlock | decBlockLast
  | decBlockBad | cbcAbort => exact absurd hj (by simp [leavesSession])
  | _ => exact ⟨rfl, rfl, rfl, rfl, rfl, rfl⟩

theorem SameSession.encOutput_eq {d d' : Device} (h : SameSession d d') : encOutput d' = encOutput d := by
  simp only [encOutput, encWindow, dinBytes, chainBytes, h.blkrem, h.tail, h.chain, h.rk, h.din]

theorem SameSession.decOutput_eq {d d' : Device} (h : SameSession d d') : decOutput d' = decOutput d := by
  simp only [decOutput, dinBytes, chainBytes, h.chain, h.rk, h.din]

/-- What the session sees of a command's end: u and v are the blocks after it. -/
def SameEnd (u v : Device) : Prop :=
  v.err = u.err ∧ v.chain = u.chain ∧ v.mode = u.mode ∧ v.blkrem = u.blkrem ∧ (u.err ≠ .seq → v.dout = u.dout)

theorem SameSession.exec_cbcEncBlock {s t : State} (h : SameSession s.dev t.dev) :
    ∃ u v, exec .cbcEncBlock s = .next u ∧ exec .cbcEncBlock t = .next v ∧ SameEnd u.dev v.dev := by
  by_cases enc : s.dev.mode = .enc
  case neg =>
    exact ⟨_, _, cbcEncBlock_completesWith_seq enc, cbcEncBlock_completesWith_seq (h.mode ▸ enc),
      rfl, h.chain, h.mode, h.blkrem, fun seq => absurd rfl seq⟩
  have enc' := h.mode.trans enc
  by_cases last : s.dev.blkrem.toNat = 1
  · refine ⟨_, _, cbcEncBlock_completesWith_last enc last,
      cbcEncBlock_completesWith_last enc' (h.blkrem ▸ last), ?_⟩
    rw [h.encOutput_eq]
    exact ⟨rfl, rfl, rfl, rfl, fun _ => rfl⟩
  · refine ⟨_, _, cbcEncBlock_completesWith_more enc last,
      cbcEncBlock_completesWith_more enc' (h.blkrem ▸ last), ?_⟩
    rw [h.encOutput_eq, h.blkrem]
    exact ⟨rfl, rfl, enc'.trans enc.symm, rfl, fun _ => rfl⟩

theorem SameSession.exec_cbcDecBlock {s t : State} (h : SameSession s.dev t.dev) :
    ∃ u v, exec .cbcDecBlock s = .next u ∧ exec .cbcDecBlock t = .next v ∧ SameEnd u.dev v.dev := by
  by_cases dec : s.dev.mode = .dec
  case neg =>
    exact ⟨_, _, cbcDecBlock_completesWith_seq dec, cbcDecBlock_completesWith_seq (h.mode ▸ dec),
      rfl, h.chain, h.mode, h.blkrem, fun seq => absurd rfl seq⟩
  have dec' := h.mode.trans dec
  by_cases last : s.dev.blkrem.toNat = 1
  case neg =>
    refine ⟨_, _, cbcDecBlock_completesWith_more dec last,
      cbcDecBlock_completesWith_more dec' (h.blkrem ▸ last), ?_⟩
    rw [h.decOutput_eq, h.blkrem]
    exact ⟨rfl, h.din, dec'.trans dec.symm, rfl, fun _ => rfl⟩
  by_cases pad : PaddingHolds (decOutput s.dev)
  · refine ⟨_, _, cbcDecBlock_completesWith_last dec last pad,
      cbcDecBlock_completesWith_last dec' (h.blkrem ▸ last) (h.decOutput_eq.symm ▸ pad), ?_⟩
    rw [h.decOutput_eq]
    exact ⟨rfl, h.din, rfl, rfl, fun _ => rfl⟩
  · exact ⟨_, _, cbcDecBlock_completesWith_badpad dec last pad,
      cbcDecBlock_completesWith_badpad dec' (h.blkrem ▸ last) (h.decOutput_eq.symm ▸ pad),
      rfl, h.din, rfl, rfl, fun _ => rfl⟩

end Sys2Proof.Machine

open Sys2Proof.Machine

/-- Settles O23, from the writes of the commands: each way through a command's rule leaves the MODE of the table. -/
theorem sessionFollowsItsStateMachine : Obligations.SessionFollowsItsStateMachine := by
  intro i s t h
  obtain ⟨code, d, hw, ht⟩ := exec_writes h
  rw [ht]
  refine ⟨hw.mode_eq_sessionAfter, fun start ok => ?_⟩
  obtain rfl : code = .ok := ok
  exact hw.idle_of_start start

/-- Settles O24: the commands R207 allows leave everything that a BLOCK command reads. -/
theorem interleavedCommandsDoNotDisturbTheSession : Obligations.InterleavedCommandsDoNotDisturbTheSession := by
  intro j s t hj h
  obtain ⟨code, d, hw, ht⟩ := exec_writes h
  have same : SameSession s.dev t.dev := ht ▸ hw.sameSession hj
  refine ⟨⟨same.mode, same.blkrem, same.tail, same.chain⟩, fun b hb => ?_⟩
  rcases hb with rfl | rfl
  · exact same.exec_cbcEncBlock
  · exact same.exec_cbcDecBlock
end

section
/-! The host protocols of R208 and R209 compute the source's encryption and decryption (R210): a simulation over the
blocks, each BLOCK command being one step of the source's loop. -/

namespace Sys2Proof.Machine

open Sys2Proof.Statements

/-! ### The block between the commands of a protocol (R201-R205) -/

/-- An open encryption session: n windows to come, the last with m bytes of data, and the block `prev` chained next. -/
structure EncSession (rk : Vector Word 60) (prev : Block) (n m : Nat) (d : Device) : Prop where
  mode : d.mode = .enc
  key : d.keyvalid = true
  rk : d.rk = rk
  chain : bytesOf d.chain = prev
  blkrem : d.blkrem.toNat = n
  tail : d.tail.toNat = m

/-- An open decryption session: n blocks to come, and the block `prev` chained next. -/
structure DecSession (rk : Vector Word 60) (prev : Block) (n : Nat) (d : Device) : Prop where
  mode : d.mode = .dec
  rk : d.rk = rk
  chain : bytesOf d.chain = prev
  blkrem : d.blkrem.toNat = n

/-- No session is open and the schedule rk is loaded: what both protocols start from. -/
structure Ready (rk : Vector Word 60) (d : Device) : Prop where
  mode : d.mode = .idle
  key : d.keyvalid = true
  rk : d.rk = rk

@[simp] theorem bytesOf_withDin (b : Block) (s : State) : bytesOf (withDin b s).dev.din = b := bytesOf_fourWords b

theorem Ready.after_withLen {rk : Vector Word 60} {s : State} (h : Ready rk s.dev) (n : Nat) :
    Ready rk (withLen n s).dev :=
  ⟨h.mode, h.key, h.rk⟩

theorem Ready.after_withIv {rk : Vector Word 60} {s : State} (h : Ready rk s.dev) (b : Block) :
    Ready rk (withIv b s).dev :=
  ⟨h.mode, h.key, h.rk⟩

theorem EncSession.after_withDin {rk : Vector Word 60} {prev : Block} {n m : Nat} {s : State}
    (h : EncSession rk prev n m s.dev) (w : Block) : EncSession rk prev n m (withDin w s).dev :=
  ⟨h.mode, h.key, h.rk, h.chain, h.blkrem, h.tail⟩

theorem DecSession.after_withDin {rk : Vector Word 60} {prev : Block} {n : Nat} {s : State}
    (h : DecSession rk prev n s.dev) (c : Block) : DecSession rk prev n (withDin c s).dev :=
  ⟨h.mode, h.rk, h.chain, h.blkrem⟩

theorem withLen_toNat {n : Nat} (h : n < 2 ^ 32) (s : State) : (withLen n s).dev.len.toNat = n := by
  rw [withLen, BitVec.toNat_ofNat, Nat.mod_eq_of_lt h]

/-! ### The windows of a plaintext (R208) -/

/-- The windows are the full blocks of p, then its tail filled up. -/
theorem windows_eq (p filler : List Byte) : windows p filler =
    blocks16 p ++ [bytesOfList 16 (p.drop (16 * (p.length / 16)) ++ filler)] := by
  rw [windows, blocks16, List.range_succ, List.map_append, List.map_singleton,
    List.drop_append_of_le_length (by omega)]
  refine congrArg (· ++ _) (List.map_congr_left fun j hj => ?_)
  have := List.mem_range.1 hj
  rw [List.drop_append_of_le_length (by omega), bytesOfList_append_of_le (by rw [List.length_drop]; omega)]

/-- The bytes a block is filled up with are not among its first ones. -/
theorem bytesOfList_append_toList_take {t : List Byte} (h : t.length ≤ 16) (filler : List Byte) :
    (bytesOfList 16 (t ++ filler)).toList.take t.length = t := by
  refine List.ext_getElem (by simpa using h) fun i hi hi' => ?_
  simp [hi', List.getElem?_append_left]

/-! ### Encryption (R208, R210a) -/

/-- A window that is not the last is one step of the source's loop. -/
theorem EncSession.exec_more {rk : Vector Word 60} {prev : Block} {n m : Nat} {s : State}
    (h : EncSession rk prev (n + 1) m s.dev) (hn : n ≠ 0) (w : Block) : ∃ t,
      exec .cbcEncBlock (withDin w s) = .next t ∧ bytesOf t.dev.dout = cipher (xorBlock w prev) rk ∧
      EncSession rk (cipher (xorBlock w prev) rk) n m t.dev := by
  have h := h.after_withDin w
  have more : 1 < (withDin w s).dev.blkrem.toNat := by rw [h.blkrem]; omega
  have out : encOutput (withDin w s).dev = cipher (xorBlock w prev) rk := by
    rw [encOutput_of_more more, bytesOf_withDin, h.chain, h.rk]
  refine ⟨_, cbcEncBlock_completesWith_more h.mode (by omega), ?_, h.mode, h.key, h.rk, ?_, ?_, h.tail⟩
  · exact (bytesOf_fourWords _).trans out
  · exact (bytesOf_fourWords _).trans out
  · exact (blkrem_sub_one_toNat more).trans (by rw [h.blkrem]; rfl)

/-- The last window is padded, and ends the session. -/
theorem EncSession.exec_last {rk : Vector Word 60} {prev : Block} {m : Nat} {s : State}
    (h : EncSession rk prev 1 m s.dev) (w : Block) : ∃ t,
      exec .cbcEncBlock (withDin w s) = .next t ∧
      bytesOf t.dev.dout = cipher (xorBlock (padBlock (w.toList.take m) m) prev) rk ∧
      Ready rk t.dev ∧ t.dev.err = .ok := by
  have h := h.after_withDin w
  refine ⟨_, cbcEncBlock_completesWith_last h.mode h.blkrem, (bytesOf_fourWords _).trans ?_, ⟨rfl, h.key, h.rk⟩, rfl⟩
  rw [encOutput_of_last h.blkrem, bytesOf_withDin, h.chain, h.rk, h.tail]

/-- The loop of R208 is the source's loop over the windows, the last one padded. -/
theorem EncSession.encryptBlocks_next {rk : Vector Word 60} {prev : Block} {m : Nat} {ws : List Block} {s : State}
    (h : EncSession rk prev (ws.length + 1) m s.dev) (w : Block) : ∃ t,
      encryptBlocks (ws ++ [w]) s = .next (cbcChain rk prev (ws ++ [padBlock (w.toList.take m) m]), t) ∧
      Ready rk t.dev ∧ t.dev.err = .ok := by
  induction ws generalizing prev s with
  | nil =>
    obtain ⟨t, ht, out, ready⟩ := h.exec_last w
    refine ⟨t, ?_, ready⟩
    simp only [List.nil_append, encryptBlocks, ht, andThen_next, out, cbcChain]
  | cons x ws ih =>
    obtain ⟨u, hu, out, after⟩ := h.exec_more (Nat.succ_ne_zero _) x
    obtain ⟨t, ht, ready⟩ := ih after
    refine ⟨t, ?_, ready⟩
    simp only [List.cons_append, encryptBlocks, hu, andThen_next, ht, out, cbcChain]

/-- What a successful CBC_ENC_START leaves, once LEN holds the plaintext's length (R201). -/
theorem Ready.encSession_openEncryption {rk : Vector Word 60} {s : State} (h : Ready rk s.dev) {n : Nat}
    (hn : n < 2 ^ 32) {prev : Block} (iv : Vector Word 4) (chain : bytesOf iv = prev) :
    EncSession rk prev (n / 16 + 1) (n % 16) (ended .ok (openEncryption iv (withLen n s).dev)) where
  mode := rfl
  key := h.key
  rk := h.rk
  chain := chain
  blkrem := (encBlocks_toNat _).trans (by rw [withLen_toNat hn])
  tail := (encTail_toNat _).trans (by rw [withLen_toNat hn])

/-- R208 once its START has opened the session: the output is the source's encryption (R210a). -/
theorem encryptMessage_of_start {src : IvSource} {p : List Byte} {rk : Vector Word 60} {iv : Block} {s t : State}
    (start : exec (.cbcEncStart src) (withLen p.length s) = .next t) (ok : t.dev.err = .ok)
    (out : bytesOf t.dev.iv = iv) (session : EncSession rk iv (p.length / 16 + 1) (p.length % 16) t.dev)
    (filler : List Byte) : ∃ u,
      encryptMessage src p filler s = .next (some (sourceEncrypt rk iv p), u) ∧ Ready rk u.dev ∧ u.dev.err = .ok := by
  have tail : (p.drop (16 * (p.length / 16))).length = p.length % 16 := by
    rw [List.length_drop]
    omega
  rw [← blocks16_length] at session
  obtain ⟨u, hu, done⟩ := session.encryptBlocks_next (bytesOfList 16 (p.drop (16 * (p.length / 16)) ++ filler))
  rw [← windows_eq, ← tail, bytesOfList_append_toList_take (by omega), tail, ← blocks16_padMessage] at hu
  refine ⟨u, ?_, done⟩
  rw [encryptMessage, start, andThen_next, if_neg (by simp [ok]), hu, andThen_next, out, sourceEncrypt]

theorem encryptMessage_iv {p : List Byte} {rk : Vector Word 60} {s : State} (hp : p.length < 2 ^ 32)
    (h : Ready rk s.dev) (filler : List Byte) : ∃ t,
      encryptMessage .iv p filler s = .next (some (sourceEncrypt rk (bytesOf s.dev.iv) p), t) ∧
      Ready rk t.dev ∧ t.dev.err = .ok :=
  encryptMessage_of_start (cbcEncStart_iv_completesWith h.mode h.key) rfl rfl
    (h.encSession_openEncryption hp _ rfl) filler

theorem encryptMessage_rng_of_some {p : List Byte} {rk : Vector Word 60} {s : State} {iv : Block}
    (hp : p.length < 2 ^ 32) (h : Ready rk s.dev) (answer : Config.entropy s.draws.entropy = some iv)
    (filler : List Byte) : ∃ t,
      encryptMessage .rng p filler s = .next (some (sourceEncrypt rk iv p), t) ∧ Ready rk t.dev ∧ t.dev.err = .ok := by
  have start := exec_cbcEncStart_rng_of_some (s := withLen p.length s) h.mode h.key answer
  have out := bytesOf_fourWords iv
  exact encryptMessage_of_start start rfl out (h.encSession_openEncryption hp _ out) filler

/-- R208 when its START fails: there is no output. -/
theorem encryptMessage_of_start_error {src : IvSource} {p : List Byte} {s t : State}
    (start : exec (.cbcEncStart src) (withLen p.length s) = .next t) (error : t.dev.err ≠ .ok) (filler : List Byte) :
    encryptMessage src p filler s = .next (none, t) := by
  rw [encryptMessage, start, andThen_next, if_pos error]

theorem encryptMessage_rng_of_none {p : List Byte} {rk : Vector Word 60} {s : State} (h : Ready rk s.dev)
    (answer : Config.entropy s.draws.entropy = none) (filler : List Byte) : ∃ t,
      encryptMessage .rng p filler s = .next (none, t) ∧ Ready rk t.dev ∧ t.dev.err = .rngfail :=
  have start := exec_cbcEncStart_rng_of_none (s := withLen p.length s) h.mode h.key answer
  ⟨_, encryptMessage_of_start_error start nofun filler, ⟨h.mode, h.key, h.rk⟩, rfl⟩

/-! ### Decryption (R209, R210b) -/

/-- What the last block of a decryption leaves: y is the block, and BADPAD withholds it (R205). -/
structure DecEnd (y : Block) (d : Device) : Prop where
  mode : d.mode = .idle
  released : PaddingHolds y → d.err = .ok ∧ bytesOf d.dout = y ∧ d.cnt.toNat = 16 - y[15].toNat
  badpad : ¬ PaddingHolds y → d.err = .badpad

/-- A block that is not the last is one step of the source's loop. -/
theorem DecSession.exec_more {rk : Vector Word 60} {prev : Block} {n : Nat} {s : State}
    (h : DecSession rk prev (n + 1) s.dev) (hn : n ≠ 0) (c : Block) : ∃ t,
      exec .cbcDecBlock (withDin c s) = .next t ∧ bytesOf t.dev.dout = xorBlock (invCipher c rk) prev ∧
      DecSession rk c n t.dev := by
  have h := h.after_withDin c
  have more : 1 < (withDin c s).dev.blkrem.toNat := by rw [h.blkrem]; omega
  refine ⟨_, cbcDecBlock_completesWith_more h.mode (by omega), (bytesOf_fourWords _).trans ?_, h.mode, h.rk,
    bytesOf_withDin c s, (blkrem_sub_one_toNat more).trans (by rw [h.blkrem]; rfl)⟩
  rw [decOutput, dinBytes, chainBytes, bytesOf_withDin, h.chain, h.rk]

/-- The last block ends the session, released or not. -/
theorem DecSession.exec_last {rk : Vector Word 60} {prev : Block} {s : State} (h : DecSession rk prev 1 s.dev)
    (c : Block) : ∃ t, exec .cbcDecBlock (withDin c s) = .next t ∧ DecEnd (xorBlock (invCipher c rk) prev) t.dev := by
  have h := h.after_withDin c
  have out : decOutput (withDin c s).dev = xorBlock (invCipher c rk) prev := by
    rw [decOutput, dinBytes, chainBytes, bytesOf_withDin, h.chain, h.rk]
  rw [← out]
  by_cases pad : PaddingHolds (decOutput (withDin c s).dev)
  · exact ⟨_, cbcDecBlock_completesWith_last h.mode h.blkrem pad, rfl,
      fun _ => ⟨rfl, bytesOf_fourWords _, unpadCount_toNat pad⟩, fun bad => absurd pad bad⟩
  · exact ⟨_, cbcDecBlock_completesWith_badpad h.mode h.blkrem pad, rfl, fun good => absurd good pad, fun _ => rfl⟩

/-- The loop of R209 is the source's loop over the ciphertext blocks; what it reads last is what the end of the session
left in DOUT. -/
theorem DecSession.decryptBlocks_next {rk : Vector Word 60} {prev : Block} {cs : List Block} {s : State}
    (h : DecSession rk prev (cs.length + 1) s.dev) (c : Block) : ∃ ys y t,
      cbcUnchain rk prev (cs ++ [c]) = ys ++ [y] ∧ ys.length = cs.length ∧
      decryptBlocks (cs ++ [c]) s = .next (ys ++ [bytesOf t.dev.dout], t) ∧ DecEnd y t.dev := by
  induction cs generalizing prev s with
  | nil =>
    obtain ⟨t, ht, done⟩ := h.exec_last c
    refine ⟨[], _, t, rfl, rfl, ?_, done⟩
    simp only [List.nil_append, decryptBlocks, ht, andThen_next]
  | cons x cs ih =>
    obtain ⟨u, hu, out, after⟩ := h.exec_more (Nat.succ_ne_zero _) x
    obtain ⟨ys, y, t, plain, length, ht, done⟩ := ih after
    refine ⟨xorBlock (invCipher x rk) prev :: ys, y, t, ?_, congrArg (· + 1) length, ?_, done⟩
    · simp only [List.cons_append, cbcUnchain, plain]
    · simp only [List.cons_append, decryptBlocks, hu, andThen_next, ht, out]

/-- The source's decryption of a ciphertext of a legal length, by the last block of its plaintext. -/
theorem sourceDecrypt_of_cbcUnchain {rk : Vector Word 60} {c : List Byte} {ys : List Block} {y : Block}
    (legal : 32 ≤ c.length ∧ (c.length - 16) % 16 = 0)
    (plain : cbcUnchain rk (bytesOfList 16 c) (blocks16 (c.drop 16)) = ys ++ [y]) : sourceDecrypt rk c =
      if unpadOK y then .ok (blocksBytes ys ++ y.toList.take (16 - y[15].toNat)) else .error .badpad := by
  rw [sourceDecrypt, if_neg (not_not.2 legal), plain, unpadMessage_blocksBytes]
  cases unpadOK y <;> rfl

/-- CBC_DEC_START opens a session once LEN and IV hold a legal length and the ciphertext's first block (R204). -/
theorem Ready.exec_cbcDecStart_of_legal {rk : Vector Word 60} {s : State} (h : Ready rk s.dev) {n : Nat}
    (hn : n < 2 ^ 32) (iv : Block) (legal : 32 ≤ n ∧ (n - 16) % 16 = 0) : ∃ t,
      exec .cbcDecStart (withIv iv (withLen n s)) = .next t ∧ t.dev.err = .ok ∧
      DecSession rk iv ((n - 16) / 16) t.dev := by
  have h := (h.after_withLen n).after_withIv iv
  have len : (withIv iv (withLen n s)).dev.len.toNat = n := withLen_toNat hn s
  exact ⟨_, cbcDecStart_completesWith h.mode h.key (by rwa [len]), rfl, rfl, h.rk, bytesOf_fourWords iv,
    (decBlocks_toNat _).trans (by rw [len])⟩

/-- CBC_DEC_START refuses another length with BADLEN (R204). -/
theorem Ready.exec_cbcDecStart_of_illegal {rk : Vector Word 60} {s : State} (h : Ready rk s.dev) {n : Nat}
    (hn : n < 2 ^ 32) (iv : Block) (illegal : ¬(32 ≤ n ∧ (n - 16) % 16 = 0)) : ∃ t,
      exec .cbcDecStart (withIv iv (withLen n s)) = .next t ∧ t.dev.err = .badlen ∧ t.dev.mode = .idle := by
  have h := (h.after_withLen n).after_withIv iv
  have len : (withIv iv (withLen n s)).dev.len.toNat = n := withLen_toNat hn s
  exact ⟨_, cbcDecStart_completesWith_badlen h.mode h.key (by rwa [len]), rfl, h.mode⟩

/-- R210(b): R209 outputs the source's decryption, and fails as it does. -/
theorem decryptMessage_next {c : List Byte} {rk : Vector Word 60} {s : State} (hc : c.length < 2 ^ 32)
    (h : Ready rk s.dev) : ∃ t, decryptMessage c s = .next (sourceDecrypt rk c, t) ∧ t.dev.mode = .idle := by
  by_cases legal : 32 ≤ c.length ∧ (c.length - 16) % 16 = 0
  case neg =>
    obtain ⟨t, start, badlen, idle⟩ := h.exec_cbcDecStart_of_illegal hc (bytesOfList 16 c) legal
    refine ⟨t, ?_, idle⟩
    rw [decryptMessage, start, andThen_next, if_pos (by simp [badlen]), badlen, sourceDecrypt, if_pos legal]
  obtain ⟨u, start, ok, session⟩ := h.exec_cbcDecStart_of_legal hc (bytesOfList 16 c) legal
  have count : (blocks16 (c.drop 16)).length = (c.length - 16) / 16 := by rw [blocks16_length, List.length_drop]
  obtain ⟨cs, x, blocks⟩ : ∃ cs x, blocks16 (c.drop 16) = cs ++ [x] :=
    (List.eq_nil_or_concat' _).resolve_left (List.ne_nil_of_length_pos (by omega))
  rw [← count, blocks, List.length_append] at session
  obtain ⟨ys, y, t, plain, length, loop, done⟩ := session.decryptBlocks_next x
  rw [← blocks] at plain loop
  refine ⟨t, ?_, done.mode⟩
  rw [decryptMessage, start, andThen_next, if_neg (by simp [ok]), loop, andThen_next,
    sourceDecrypt_of_cbcUnchain legal plain]
  by_cases pad : PaddingHolds y
  · obtain ⟨good, out, cnt⟩ := done.released pad
    have data : 16 * ((c.length - 16) / 16 - 1) = (blocksBytes ys).length := by
      rw [← count, blocks, blocksBytes_length, length, List.length_append]
      rfl
    rw [if_neg (by simp [good]), if_pos ((unpadOK_iff y).2 pad), out, cnt, data, blocksBytes_append_singleton,
      List.take_length_add_append]
  · have badpad := done.badpad pad
    rw [if_pos (by simp [badpad]), if_neg (mt (unpadOK_iff y).1 pad), badpad]

/-! ### Decryption of what was encrypted (R210c) -/

/-- R209 on the output of R208, the schedule being the same. -/
theorem decryptMessage_sourceEncrypt {p : List Byte} {rk : Vector Word 60} {s : State} (iv : Block)
    (hp : p.length ≤ 0xFFFFFFDF) (h : Ready rk s.dev) :
    ∃ t, decryptMessage (blocksBytes (sourceEncrypt rk iv p)) s = .next (.ok p, t) := by
  have length := length_blocksBytes_sourceEncrypt rk iv p
  obtain ⟨t, ht, -⟩ := decryptMessage_next (c := blocksBytes (sourceEncrypt rk iv p)) (by omega) h
  exact ⟨t, ht.trans (by rw [sourceDecrypt_sourceEncrypt])⟩

end Sys2Proof.Machine

open Sys2Proof Sys2Proof.Machine

/-- Settles O56: the START opens the session, and by induction over the windows the loop is the source's. -/
theorem encryptProtocolIsTheSourcesEncrypt : Obligations.EncryptProtocolIsTheSourcesEncrypt := by
  intro p filler s hp key idle
  have ready : Ready s.dev.rk s.dev := ⟨idle, key, rfl⟩
  refine ⟨?_, ?_⟩
  · obtain ⟨t, ht, closed, ok⟩ := encryptMessage_iv hp ready filler
    exact ⟨t, ht, closed.mode, ok⟩
  · cases answer : Config.entropy s.draws.entropy with
    | none =>
      obtain ⟨t, ht, closed, rngfail⟩ := encryptMessage_rng_of_none ready answer filler
      exact ⟨t, ht, closed.mode, rngfail⟩
    | some iv =>
      obtain ⟨t, ht, closed, ok⟩ := encryptMessage_rng_of_some hp ready answer filler
      exact ⟨t, ht, closed.mode, ok⟩

/-- Settles O57, by induction over the ciphertext blocks. -/
theorem decryptProtocolIsTheSourcesDecrypt : Obligations.DecryptProtocolIsTheSourcesDecrypt :=
  fun _ _ hc key idle => decryptMessage_next hc ⟨idle, key, rfl⟩

/-- Settles O58: R208 leaves what R209 starts from, and the source's decryption undoes its encryption. -/
theorem decryptionReturnsThePlaintext : Obligations.DecryptionReturnsThePlaintext := by
  intro p filler s hp key idle
  have ready : Ready s.dev.rk s.dev := ⟨idle, key, rfl⟩
  refine ⟨?_, ?_⟩
  · obtain ⟨t, ht, closed, -⟩ := encryptMessage_iv (hp.trans_lt (by decide)) ready filler
    obtain ⟨u, hu⟩ := decryptMessage_sourceEncrypt _ hp closed
    exact ⟨_, t, u, ht, hu⟩
  · cases answer : Config.entropy s.draws.entropy with
    | none =>
      obtain ⟨t, ht, -, rngfail⟩ := encryptMessage_rng_of_none ready answer filler
      exact ⟨t, ht, rngfail⟩
    | some iv =>
      obtain ⟨t, ht, closed, -⟩ := encryptMessage_rng_of_some (hp.trans_lt (by decide)) ready answer filler
      obtain ⟨u, hu⟩ := decryptMessage_sourceEncrypt iv hp closed
      exact ⟨_, t, u, ht, hu⟩
end

section
/-! What a command sees of the host's transactions while BUSY = 1 (R228, R275): nothing but WOB, which it does not
read. -/

namespace Sys2Proof.Machine

open Sys2Proof.Statements

/-! ### Transactions while BUSY = 1 (R74, R274) -/

/-- A read leaves the count of entropy requests. -/
@[simp] theorem busRead_entropy (off : Offset) (size : Nat) (s : State) :
    (busRead off size s).2.draws.entropy = s.draws.entropy := by
  obtain ⟨-, h⟩ | ⟨r, -, -, -, -, h⟩ | ⟨r, -, -, -, h⟩ := busRead_cases off size s <;> simp [h]

/-- t is what s can become while BUSY = 1 and no reset comes: the block is the same but for WOB, which can only have
been set, and no entropy has been requested. -/
structure SameButWob (s t : State) : Prop where
  dev : t.dev = { s.dev with wob := t.dev.wob }
  wob : s.dev.wob = true → t.dev.wob = true
  entropy : t.draws.entropy = s.draws.entropy

theorem SameButWob.of_dev_eq {s t : State} (dev : t.dev = s.dev) (entropy : t.draws.entropy = s.draws.entropy) :
    SameButWob s t where
  dev := by rw [dev]
  wob h := by rw [dev, h]
  entropy := entropy

theorem SameButWob.busy {s t : State} (h : SameButWob s t) : t.dev.busy = s.dev.busy := by rw [h.dev]

theorem SameButWob.trans {s t u : State} (h : SameButWob s t) (h' : SameButWob t u) : SameButWob s u where
  dev := by rw [h'.dev, h.dev]
  wob := h'.wob ∘ h.wob
  entropy := h'.entropy.trans h.entropy

theorem sameButWob_write {s : State} (hb : s.dev.busy = true) (off : Offset) (size : Nat) (v : Word) :
    SameButWob s (performAction (.write off size v) s) := by
  obtain ⟨-, h⟩ | ⟨r, -, -, -, h⟩ | ⟨r, -, -, idle, -⟩ := busWrite_cases off size v s
  · exact .of_dev_eq (by simp [h]) (by simp [performAction, h])
  · exact ⟨by simp [h], by simp [h], by simp [performAction, h]⟩
  · simp [hb] at idle

theorem sameButWob_performAction {s : State} (hb : s.dev.busy = true) {a : Action} (ha : ∀ c, a ≠ .reset c) :
    SameButWob s (performAction a s) := by
  cases a with
  | read | check | poll => exact .of_dev_eq (by simp) (by simp [performAction])
  | write off size v => exact sameButWob_write hb off size v
  | reset c => exact absurd rfl (ha c)

theorem sameButWob_foldl {acts : List Action} {s : State} (hb : s.dev.busy = true)
    (ha : ∀ c, Action.reset c ∉ acts) : SameButWob s (acts.foldl (fun x a => performAction a x) s) := by
  induction acts generalizing s with
  | nil => exact .of_dev_eq rfl rfl
  | cons a rest ih =>
    simp only [List.mem_cons, not_or] at ha
    have first : SameButWob s (performAction a s) := sameButWob_performAction hb fun c h => (ha c).1 h.symm
    exact first.trans (ih (first.busy.trans hb) fun c => (ha c).2)

/-! ### Commands do not read WOB (R31) -/

/-- Both outcomes are next states, and the blocks are the same but that the second has WOB = w. -/
def EndsSame (w : Bool) (o p : Host.Outcome State Fault Refusal) : Prop :=
  ∃ t u, o = .next t ∧ p = .next u ∧ u.dev = { t.dev with wob := w }

theorem endsSame_finish {w : Bool} (code : ErrCode) {d d' : Device} (h : d' = { d with wob := w }) (s t : State) :
    EndsSame w (finish code d s) (finish code d' t) :=
  ⟨_, _, rfl, rfl, by rw [h]; rfl⟩

/-- A check that both states pass or fail alike. -/
theorem endsSame_ite {w : Bool} {p : Prop} [Decidable p] {o o' q q' : Host.Outcome State Fault Refusal}
    (pos : EndsSame w o q) (neg : EndsSame w o' q') : EndsSame w (if p then o else o') (if p then q else q') := by
  split
  · exact pos
  · exact neg

theorem endsSame_of_completesWith {w : Bool} {i : Instr} {s t : State} {code : ErrCode} {d d' : Device}
    (hs : CompletesWith i s code d) (ht : CompletesWith i t code d') (h : d' = { d with wob := w }) :
    EndsSame w (exec i s) (exec i t) :=
  ⟨_, _, hs, ht, by rw [h]; rfl⟩

section
variable {s t : State} {w : Bool} (h : t.dev = { s.dev with wob := w })
include h

theorem sameSession_of_wob : SameSession s.dev t.dev := by
  rw [h]
  exact ⟨rfl, rfl, rfl, rfl, rfl, rfl⟩

theorem exec_unpad_endsSame : EndsSame w (exec .unpad s) (exec .unpad t) := by
  have din : t.dev.din = s.dev.din := by rw [h]
  by_cases pad : PaddingHolds (bytesOf s.dev.din)
  · exact endsSame_of_completesWith (unpad_completesWith pad) (unpad_completesWith (din ▸ pad)) (by rw [h])
  · exact endsSame_of_completesWith (unpad_completesWith_badpad pad) (unpad_completesWith_badpad (din ▸ pad))
      (by rw [h])

theorem exec_cbcEncStart_endsSame (entropy : t.draws.entropy = s.draws.entropy) (src : IvSource) :
    EndsSame w (exec (.cbcEncStart src) s) (exec (.cbcEncStart src) t) := by
  have mode : t.dev.mode = s.dev.mode := by rw [h]
  have keyvalid : t.dev.keyvalid = s.dev.keyvalid := by rw [h]
  by_cases idle : s.dev.mode = .idle
  case neg =>
    exact endsSame_of_completesWith (cbcEncStart_completesWith_seq src idle)
      (cbcEncStart_completesWith_seq src (mode ▸ idle)) h
  cases key : s.dev.keyvalid with
  | false =>
    exact endsSame_of_completesWith (cbcEncStart_completesWith_nokey src idle key)
      (cbcEncStart_completesWith_nokey src (mode.trans idle) (keyvalid.trans key)) h
  | true =>
    have idle' := mode.trans idle
    have key' := keyvalid.trans key
    cases src with
    | iv =>
      exact endsSame_of_completesWith (cbcEncStart_iv_completesWith idle key) (cbcEncStart_iv_completesWith idle' key')
        (by rw [h]; rfl)
    | rng =>
      cases answer : Config.entropy s.draws.entropy with
      | none =>
        exact ⟨_, _, exec_cbcEncStart_rng_of_none idle key answer,
          exec_cbcEncStart_rng_of_none idle' key' (entropy ▸ answer), by rw [h]; rfl⟩
      | some iv =>
        exact ⟨_, _, exec_cbcEncStart_rng_of_some idle key answer,
          exec_cbcEncStart_rng_of_some idle' key' (entropy ▸ answer), by rw [h]; rfl⟩

theorem exec_cbcEncBlock_endsSame : EndsSame w (exec .cbcEncBlock s) (exec .cbcEncBlock t) := by
  have same := sameSession_of_wob h
  by_cases enc : s.dev.mode = .enc
  case neg =>
    exact endsSame_of_completesWith (cbcEncBlock_completesWith_seq enc)
      (cbcEncBlock_completesWith_seq (same.mode ▸ enc)) h
  have enc' := same.mode.trans enc
  by_cases last : s.dev.blkrem.toNat = 1
  · exact endsSame_of_completesWith (cbcEncBlock_completesWith_last enc last)
      (cbcEncBlock_completesWith_last enc' (same.blkrem ▸ last)) (by rw [same.encOutput_eq, h])
  · exact endsSame_of_completesWith (cbcEncBlock_completesWith_more enc last)
      (cbcEncBlock_completesWith_more enc' (same.blkrem ▸ last)) (by rw [same.encOutput_eq, h])

theorem exec_cbcDecBlock_endsSame : EndsSame w (exec .cbcDecBlock s) (exec .cbcDecBlock t) := by
  have same := sameSession_of_wob h
  by_cases dec : s.dev.mode = .dec
  case neg =>
    exact endsSame_of_completesWith (cbcDecBlock_completesWith_seq dec)
      (cbcDecBlock_completesWith_seq (same.mode ▸ dec)) h
  have dec' := same.mode.trans dec
  by_cases last : s.dev.blkrem.toNat = 1
  case neg =>
    exact endsSame_of_completesWith (cbcDecBlock_completesWith_more dec last)
      (cbcDecBlock_completesWith_more dec' (same.blkrem ▸ last)) (by rw [same.decOutput_eq, h])
  by_cases pad : PaddingHolds (decOutput s.dev)
  · exact endsSame_of_completesWith (cbcDecBlock_completesWith_last dec last pad)
      (cbcDecBlock_completesWith_last dec' (same.blkrem ▸ last) (same.decOutput_eq.symm ▸ pad))
      (by rw [same.decOutput_eq, h])
  · exact endsSame_of_completesWith (cbcDecBlock_completesWith_badpad dec last pad)
      (cbcDecBlock_completesWith_badpad dec' (same.blkrem ▸ last) (same.decOutput_eq.symm ▸ pad))
      (by rw [h])

/-- The checks of a command at t come out as those at s, and its writes are the same, since neither reads WOB. -/
theorem exec_endsSame (entropy : t.draws.entropy = s.draws.entropy) (i : Instr) :
    EndsSame w (exec i s) (exec i t) := by
  have encStart := exec_cbcEncStart_endsSame h entropy
  obtain ⟨d, script, lat, draws, log, failed⟩ := t
  obtain rfl : d = { s.dev with wob := w } := h
  cases i with
  | nop | clear | shaInit | pad | cbcAbort => exact endsSame_finish _ rfl _ _
  | shaBlock | shaFinal | keyExpand | aesEnc | aesDec =>
    exact endsSame_ite (endsSame_finish _ rfl _ _) (endsSame_finish _ rfl _ _)
  | unpad => exact exec_unpad_endsSame rfl
  | cbcEncStart src => exact encStart src
  | cbcEncBlock => exact exec_cbcEncBlock_endsSame rfl
  | cbcDecStart =>
    exact endsSame_ite (endsSame_finish _ rfl _ _) (endsSame_ite (endsSame_finish _ rfl _ _)
      (endsSame_ite (endsSame_finish _ rfl _ _) (endsSame_finish _ rfl _ _)))
  | cbcDecBlock => exact exec_cbcDecBlock_endsSame rfl

end

end Sys2Proof.Machine

open Sys2Proof.Machine

/-- Settles O45: the host's transactions leave the block but for WOB, no command reads WOB or writes it, and no
transaction requests entropy. -/
theorem completionDoesNotDependOnWhatTheHostDidMeanwhile :
    Obligations.CompletionDoesNotDependOnWhatTheHostDidMeanwhile := by
  intro i s acts hb ha
  have same := sameButWob_foldl hb ha
  obtain ⟨t, u, ht, hu, dev⟩ := exec_endsSame same.dev same.entropy i
  obtain ⟨code, d, hw, hd⟩ := exec_writes ht
  have wob : t.dev.wob = s.dev.wob := hd ▸ hw.ie_wob_eq.2
  refine ⟨t, u, ht, hu, by rw [dev], fun set => ?_⟩
  rw [dev]
  exact same.wob (wob ▸ set)
end

section
/-! Whose turn it is and what it does (R221, R223, R253), from the state. -/

namespace Sys2Proof.Machine

open Sys2Proof.Statements

theorem takesCompletion_iff (a : Action) : a.takesCompletion = true ↔ a = .reset .completion := by
  cases a with
  | reset c => cases c <;> simp [Action.takesCompletion]
  | read | write | check | poll => simp [Action.takesCompletion]

theorem nextTurn_of_due {s : State} (h : Due s) : nextTurn s = .completion := by
  obtain ⟨busy, empty | ⟨spent, alone⟩⟩ := h
  · simp [nextTurn, empty, busy]
  · cases hs : s.script with
    | nil => simp [nextTurn, hs, busy]
    | cons a rest =>
      have ha : ¬a.takesCompletion = true := by
        rw [takesCompletion_iff]
        rintro rfl
        exact alone rest hs
      simp [nextTurn, hs, busy, spent, ha]

theorem nextTurn_of_not_due {s : State} {a : Action} {rest : List Action} (hs : s.script = a :: rest)
    (h : s.dev.busy = false ∨ 0 < s.lat ∨ a = .reset .completion) : nextTurn s = .host a rest := by
  obtain idle | waiting | cut := h
  · simp [nextTurn, hs, idle]
  · simp [nextTurn, hs, waiting.ne']
  · simp [nextTurn, hs, (takesCompletion_iff a).2 cut]

theorem step_of_due {s : State} {v : Word} (h : Due s) (hp : s.dev.pending = some v) : step s = execute v s :=
  step_completion (nextTurn_of_due h) hp

theorem performAction_check (off : Offset) (mask want : Word) (s : State) :
    performAction (.check off mask want) s = { RecordedIn (busRead off 32 s) with
      failed := if (busRead off 32 s).1.agrees mask want then s.failed else s.failed + 1 } := by
  simp only [performAction, busRead_failed]
  rfl

end Sys2Proof.Machine

open Sys2Proof Sys2Proof.Machine

/-- Settles O1: the pending word's turn has come, and its execution is its command's meaning. -/
theorem stepRunsTheDecodedCommand : Obligations.StepRunsTheDecodedCommand := by
  intro s v i due hp hd
  rw [step_of_due due hp, execute, hd]

/-- Settles O2: the pending word's turn has come, and its execution is the completion with ILLCMD. -/
theorem illegalWordCompletesWithIllcmd : Obligations.IllegalWordCompletesWithIllcmd := by
  intro s v e due hp hd
  rw [step_of_due due hp, execute, hd]
  rfl

/-- Settles O3, by whose turn it is; the actions are the bus transactions, the assertion and `wait` of the laws. -/
theorem hostActsOrBlockRests : Obligations.HostActsOrBlockRests := by
  refine ⟨fun s a rest hs turn => step_host (nextTurn_of_not_due hs turn), fun s hs hb => ?_,
    fun off size v mask want s => ⟨rfl, rfl, ⟨_, performAction_check off mask want s, ?_, ?_⟩,
      performAction_poll s⟩⟩
  · simp [step, nextTurn, hs, hb]
  · exact fun agrees => if_pos ((agrees_iff ..).2 agrees)
  · exact fun differs => if_neg (mt (agrees_iff ..).1 differs)
end

section
/-! The two events of a command (R220, R222), and the control commands (R224, R225). -/

namespace Sys2Proof.Machine

open Sys2Proof.Statements

/-! ### A command's events (R220, R222) -/

theorem busWrite_offset_of_busy {r : Reg} {s : State} (hb : s.dev.busy = true) (v : Word) :
    busWrite r.offset 32 v s = (.okay, discardWrite s) := by
  simp [busWrite, regAt_offset, hb]

/-- After `complete` irq is IE (R251). -/
theorem irq_complete (code : ErrCode) (d : Device) : irq (d.complete code) = d.ie := Bool.and_true _

theorem irq_accept (v : Word) (d : Device) : irq (d.accept v) = false := Bool.and_false _

/-! ### NOP and CLEAR (R224, R225) -/

theorem decode_eq_nop_iff (v : Word) : decode v = .ok .nop ↔ v = 0x00000000#32 := by
  constructor
  · intro h
    exact (encodeUndoesDecode v .nop h).2.symm
  · rintro rfl
    exact decodeUndoesEncode .nop rfl

theorem exec_clear (s : State) : exec .clear s = .next
    { s with dev := { Device.reset with ie := s.dev.ie, wob := s.dev.wob, done := true } } := rfl

end Sys2Proof.Machine

open Sys2Proof Sys2Proof.Machine

/-- Settles O19: beside the block, where `complete` ends the command, at most the count of entropy requests changes. -/
theorem everyCommandCompletes : Obligations.EveryCommandCompletes := by
  intro i s
  obtain ⟨code, d, n, hw, he⟩ := exec_completes i s
  exact ⟨_, he, rfl, rfl, rfl, (irq_complete code d).trans hw.ie_wob_eq.1, rfl, rfl, rfl, rfl, rfl, rfl, rfl⟩

/-- Settles O4: a legal word is its command's, so NOP has one word. -/
theorem nopOnlyCompletes : Obligations.NopOnlyCompletes :=
  ⟨decode_eq_nop_iff, fun _ => rfl⟩

/-- Settles O5: CLEAR leaves KEYVALID = 0, SHAACT = 0 and MODE = IDLE, by which the other commands are refused. -/
theorem clearLeavesResetValuesButIeWobDone : Obligations.ClearLeavesResetValuesButIeWobDone := by
  refine ⟨decodeUndoesEncode .clear rfl, fun s => ⟨_, exec_clear s, rfl, ?_⟩⟩
  exact ⟨aesEnc_completesWith_nokey rfl, aesDec_completesWith_nokey rfl,
    fun src => cbcEncStart_completesWith_nokey src rfl rfl, cbcDecStart_completesWith_nokey rfl rfl,
    shaBlock_completesWith_seq rfl, fun n => shaFinal_completesWith_seq n rfl⟩

/-- Settles O39: CMD's offset is in the map, and BUSY decides between acceptance and loss. -/
theorem cmdWriteAcceptsTheWord : Obligations.CmdWriteAcceptsTheWord :=
  ⟨fun v s hb => ⟨_, busWrite_offset (r := .cmd) hb v, rfl, rfl, rfl, rfl, irq_accept v s.dev⟩,
    fun v _ hb => busWrite_offset_of_busy (r := .cmd) hb v⟩
end

section
/-! The checks of R250 in their order, what a failed command leaves (R249), and the interrupt output (R251). -/

namespace Sys2Proof.Machine

open Sys2Proof.Statements

/-! ### The code of a command is that of its first failing check (R250) -/

theorem decLengthOK_eq_false_iff (len : Word) : decLengthOK len = false ↔
    len.toNat < 32 ∨ len.toNat % 16 ≠ 0 := by
  rw [Bool.eq_false_iff, ne_eq, decLengthOK_iff]
  omega

/-- A check that refuses a command is its first to fail; whether RNGFAIL is due rests on the entropy port. -/
theorem firstFailingCheck_of_refused {i : Instr} {s : State} {code : ErrCode} (h : Refuses s.dev code i)
    (hi : i ≠ .cbcEncStart .rng) : firstFailingCheck i s = code := by
  cases i with
  | nop | clear | shaInit | pad | unpad | cbcAbort => exact h.elim
  | shaBlock | shaFinal | keyExpand | aesEnc | aesDec | cbcEncBlock | cbcDecBlock =>
    obtain ⟨rfl, fails⟩ := h
    simp [firstFailingCheck, fails]
  | cbcEncStart src =>
    cases src with
    | rng => exact absurd rfl hi
    | iv =>
      obtain ⟨rfl, busy⟩ | ⟨rfl, idle, key⟩ | ⟨-, -, -, rng⟩ := h
      · exact if_pos busy
      · simp [firstFailingCheck, idle, key]
      · cases rng
  | cbcDecStart =>
    obtain ⟨rfl, busy⟩ | ⟨rfl, idle, key⟩ | ⟨rfl, idle, key, len⟩ := h
    · exact if_pos busy
    · simp [firstFailingCheck, idle, key]
    · simp [firstFailingCheck, idle, key, -not_lt, (decLengthOK_eq_false_iff _).1 len]

/-- The way a command takes through its rule passes every check before the one that decides its code. -/
theorem CommandWrites.code_eq_firstFailingCheck {i : Instr} {s : State} {code : ErrCode} {d : Device}
    (h : CommandWrites i s.dev code d) (hi : i ≠ .cbcEncStart .rng) : code = firstFailingCheck i s := by
  cases h with
  | refused h => exact (firstFailingCheck_of_refused h hi).symm
  | nop | clear | shaInit | pad | cbcAbort => rfl
  | shaBlock passes | shaFinal passes | keyExpand passes | aesEnc passes | aesDec passes | encBlock passes
  | encBlockLast passes => simp [firstFailingCheck, passes]
  | unpad pad | unpadBad pad =>
    rw [dinBytes] at pad
    simp [firstFailingCheck, pad]
  | encStartIv idle key => simp [firstFailingCheck, idle, key]
  | encStartRng => exact absurd rfl hi
  | decStart idle key len =>
    rw [← Bool.not_eq_false, decLengthOK_eq_false_iff] at len
    simp [firstFailingCheck, idle, key, -not_or, len]
  | decBlock dec more => simp [firstFailingCheck, dec, more]
  | decBlockLast dec last pad | decBlockBad dec last pad =>
    rw [decOutput, dinBytes, chainBytes] at pad
    simp [firstFailingCheck, dec, last, pad]

/-! ### The requests for entropy (R57, R250) -/

/-- n entropy requests have been made in the next state, if o is one. -/
def KeepsEntropy (n : Nat) (o : Host.Outcome State Fault Refusal) : Prop := ∀ t, o = .next t → t.draws.entropy = n

theorem keepsEntropy_finish (code : ErrCode) (d : Device) (s : State) :
    KeepsEntropy s.draws.entropy (finish code d s) := fun _ h => by rw [finish_next h]

theorem KeepsEntropy.ite {n : Nat} {p : Prop} [Decidable p] {o o' : Host.Outcome State Fault Refusal}
    (pos : KeepsEntropy n o) (neg : KeepsEntropy n o') : KeepsEntropy n (if p then o else o') := by
  split
  · exact pos
  · exact neg

/-- Every command but CBC_ENC_START rng is a tree of checks over completions, none of which asks. -/
theorem exec_keepsEntropy {i : Instr} (hi : i ≠ .cbcEncStart .rng) (s : State) :
    KeepsEntropy s.draws.entropy (exec i s) := by
  have leaf (code : ErrCode) (d : Device) := keepsEntropy_finish code d s
  cases i with
  | nop | clear | shaInit | pad | cbcAbort => exact leaf _ _
  | shaBlock | shaFinal | keyExpand | aesEnc | aesDec => exact .ite (leaf _ _) (leaf _ _)
  | unpad =>
    unfold exec execUnpad
    exact .ite (leaf _ _) (leaf _ _)
  | cbcEncBlock => exact .ite (leaf _ _) (.ite (leaf _ _) (leaf _ _))
  | cbcDecStart | cbcDecBlock => exact .ite (leaf _ _) (.ite (leaf _ _) (.ite (leaf _ _) (leaf _ _)))
  | cbcEncStart src =>
    cases src with
    | rng => exact absurd rfl hi
    | iv => exact .ite (leaf _ _) (.ite (leaf _ _) (leaf _ _))

/-- CBC_ENC_START rng asks once, after SEQ and NOKEY have passed, and the answer decides its code. -/
theorem exec_cbcEncStart_rng_checks {s t : State} (h : exec (.cbcEncStart .rng) s = .next t) :
    t.dev.err = firstFailingCheck (.cbcEncStart .rng) s ∧
    t.draws.entropy = s.draws.entropy + if s.dev.mode = .idle ∧ s.dev.keyvalid = true then 1 else 0 := by
  by_cases idle : s.dev.mode = .idle
  case neg =>
    obtain rfl := Host.Outcome.next.inj (h.symm.trans (cbcEncStart_completesWith_seq .rng idle))
    simp [firstFailingCheck, ended, idle]
  cases key : s.dev.keyvalid with
  | false =>
    obtain rfl := Host.Outcome.next.inj (h.symm.trans (cbcEncStart_completesWith_nokey .rng idle key))
    simp [firstFailingCheck, ended, idle, key]
  | true =>
    cases answer : Config.entropy s.draws.entropy with
    | none =>
      obtain rfl := Host.Outcome.next.inj (h.symm.trans (exec_cbcEncStart_rng_of_none idle key answer))
      simp [firstFailingCheck, ended, idle, key, answer]
    | some iv =>
      obtain rfl := Host.Outcome.next.inj (h.symm.trans (exec_cbcEncStart_rng_of_some idle key answer))
      simp [firstFailingCheck, ended, idle, key, answer]

/-! ### The writes of BADPAD (R247, R249) -/

theorem ne_badpad_of_refused {i : Instr} {d : Device} {code : ErrCode} (h : Refuses d code i) : code ≠ .badpad := by
  cases i with
  | nop | clear | shaInit | pad | unpad | cbcAbort => exact h.elim
  | shaBlock | shaFinal | keyExpand | aesEnc | aesDec | cbcEncBlock | cbcDecBlock => exact h.1 ▸ nofun
  | cbcEncStart | cbcDecStart => obtain ⟨rfl, -⟩ | ⟨rfl, -⟩ | ⟨rfl, -⟩ := h <;> nofun

/-- BADPAD is raised by UNPAD and by the last CBC_DEC_BLOCK of a session, and zeroes DOUT and CNT. -/
theorem CommandWrites.badpad_cases {i : Instr} {d d' : Device} (h : CommandWrites i d .badpad d') :
    (i = .unpad ∧ d' = { d with dout := zeroWords, cnt := 0#4 }) ∨
    (i = .cbcDecBlock ∧
      d' = { d with dout := zeroWords, cnt := 0#4, mode := .idle, blkrem := 0#29, chain := d.din }) := by
  cases h with
  | refused h => exact absurd rfl (ne_badpad_of_refused h)
  | unpadBad => exact .inl ⟨rfl, rfl⟩
  | decBlockBad => exact .inr ⟨rfl, rfl⟩

/-! ### The interrupt output (R54, R251) -/

theorem irq_eq_true_iff (d : Device) : irq d = true ↔ d.ie = true ∧ d.done = true := Bool.and_eq_true_iff

theorem irq_of_not_done {d : Device} (h : d.done = false) : irq d = false := by rw [irq, h, Bool.and_false]

theorem hostTurn_reset_dev (c : Coincidence) (rest : List Action) (s : State) :
    (hostTurn (.reset c) rest s).dev = Device.reset := rfl

end Sys2Proof.Machine

open Sys2Proof.Machine

/-- Settles O20: the way a command takes through its rule decides the code, and for CBC_ENC_START rng the answer of the
entropy port, which no other command asks. -/
theorem errorCodeIsTheFirstFailingCheck : Obligations.ErrorCodeIsTheFirstFailingCheck := by
  refine ⟨fun v e s hd => ⟨_, by rw [execute, hd]; rfl, rfl⟩, fun i s t h => ?_⟩
  by_cases rng : i = .cbcEncStart .rng
  · subst rng
    simpa using exec_cbcEncStart_rng_checks h
  · obtain ⟨code, d, hw, ht⟩ := exec_writes h
    exact ⟨ht ▸ hw.code_eq_firstFailingCheck rng, by simp [exec_keepsEntropy rng s t h, rng]⟩

/-- Settles O21: a command that fails with another code than BADPAD writes nothing, and an illegal word neither; BADPAD
has two ways to be raised. -/
theorem failedCommandLeavesTheBlock : Obligations.FailedCommandLeavesTheBlock := by
  intro v s t h failed
  obtain ⟨i, hd, he⟩ | ⟨e, hd, he⟩ := execute_cases v s
  · obtain ⟨code, d, hw, ht⟩ := exec_writes (he.symm.trans h)
    rw [ht] at failed ⊢
    refine ⟨fun other => by rw [hw.eq_of_failed failed other]; rfl, fun bad => ?_⟩
    obtain rfl : code = .badpad := bad
    obtain ⟨rfl, rfl⟩ | ⟨rfl, rfl⟩ := hw.badpad_cases
    · exact .inl ⟨hd, rfl⟩
    · exact .inr ⟨hd, rfl⟩
  · obtain rfl := Host.Outcome.next.inj (h.symm.trans he)
    exact ⟨fun _ => rfl, nofun⟩

/-- Settles O42: DONE = 0 while BUSY = 1 is among the invariants, and reset clears IE and DONE. -/
theorem irqIsLowWhileBusy : Obligations.IrqIsLowWhileBusy := by
  refine ⟨irq_eq_true_iff, fun s inv busy => ?_, fun c s rest => ?_⟩
  · obtain ⟨-, -, -, -, -, notDone⟩ := inv
    exact irq_of_not_done (notDone busy)
  · rw [hostTurn_reset_dev]
    exact irq_of_not_done rfl
end

section
/-! How the pending command comes to its completion while no reset comes (R221, R227, R284), what a write does while
BUSY = 1 (R274), and what a reset leaves (R253, R270, R271). -/

namespace Sys2Proof.Machine

open Sys2Proof.Statements

/-! ### A host action while BUSY = 1 (R74, R77, R274) -/

@[simp] theorem busRead_lat (off : Offset) (size : Nat) (s : State) : (busRead off size s).2.lat = s.lat := by
  obtain ⟨-, h⟩ | ⟨r, -, -, -, -, h⟩ | ⟨r, -, -, -, h⟩ := busRead_cases off size s <;> simp [h]

@[simp] theorem busRead_script (off : Offset) (size : Nat) (s : State) : (busRead off size s).2.script = s.script := by
  obtain ⟨-, h⟩ | ⟨r, -, -, -, -, h⟩ | ⟨r, -, -, -, h⟩ := busRead_cases off size s <;> simp [h]

/-- A write while BUSY = 1 is rejected or discarded, so it draws no latency. -/
theorem busWrite_lat_script_of_busy {s : State} (hb : s.dev.busy = true) (off : Offset) (size : Nat) (v : Word) :
    (busWrite off size v s).2.lat = s.lat ∧ (busWrite off size v s).2.script = s.script := by
  obtain ⟨-, h⟩ | ⟨r, -, -, -, h⟩ | ⟨r, -, -, idle, -⟩ := busWrite_cases off size v s
  · simp [h]
  · simp [h]
  · simp [hb] at idle

/-- Only an acceptance and a reset set the latency count. -/
theorem performAction_lat_of_busy {s : State} (hb : s.dev.busy = true) {a : Action} (ha : ∀ c, a ≠ .reset c) :
    (performAction a s).lat = s.lat := by
  cases a with
  | read | check | poll => simp [performAction]
  | write off size v => exact (busWrite_lat_script_of_busy hb off size v).1
  | reset c => exact absurd rfl (ha c)

/-- No action but `wait` stays in the script (R98). -/
theorem mem_script_of_performAction {s : State} (hb : s.dev.busy = true) {a b : Action}
    (h : b ∈ (performAction a s).script) : b = .poll ∨ b ∈ s.script := by
  cases a with
  | read | check => exact .inr (by simpa [performAction] using h)
  | poll => simpa [performAction_poll, hb] using h
  | write off size v => exact .inr ((busWrite_lat_script_of_busy hb off size v).2 ▸ h)
  | reset c => exact .inr (by simpa using h)

/-! ### From acceptance to completion (R221, R284) -/

/-- The word v is pending, and the host's script has no reset that would abandon it. -/
structure Waits (v : Word) (s : State) : Prop where
  busy : s.dev.busy = true
  pending : s.dev.pending = some v
  noReset : ∀ c, Action.reset c ∉ s.script

theorem Waits.performAction {v : Word} {s : State} (h : Waits v s) {a : Action} (ha : ∀ c, a ≠ .reset c) :
    Waits v (performAction a s) := by
  obtain ⟨hb, hp, hr⟩ := h
  have same := sameButWob_performAction hb ha
  refine ⟨same.busy.trans hb, (congrArg Device.pending same.dev).trans hp, fun c hc => ?_⟩
  obtain poll | left := mem_script_of_performAction hb hc
  · nomatch poll
  · exact hr c left

/-- The host's turn leaves the word pending, and uses up one unit of its latency. -/
theorem Waits.hostTurn {v : Word} {s : State} (h : Waits v s) {a : Action} {rest : List Action}
    (hs : s.script = a :: rest) : Waits v (hostTurn a rest s) ∧ (hostTurn a rest s).lat = s.lat - 1 := by
  obtain ⟨hb, hp, hr⟩ := h
  simp only [hs, List.mem_cons, not_or] at hr
  have ha : ∀ c, a ≠ .reset c := fun c h => (hr c).1 h.symm
  have taken : Waits v { s with script := rest, lat := s.lat - 1 } := ⟨hb, hp, fun c => (hr c).2⟩
  exact ⟨taken.performAction ha, performAction_lat_of_busy taken.busy ha⟩

theorem Waits.due_of_lat {v : Word} {s : State} (h : Waits v s) (spent : s.lat = 0) : Due s :=
  ⟨h.busy, .inr ⟨spent, fun _ hs => h.noReset .completion (hs ▸ List.mem_cons_self)⟩⟩

theorem run_succ_of_step {k : Nat} {s t : State} (h : step s = .next t) : core.run (k + 1) s = core.run k t := by
  have hc : core.step s = .next t := h
  simp only [Host.Core.run, hc]

/-- The pending word's turn comes within as many steps as its latency counts, by induction on the latency: it has come
when the script is empty, and otherwise the host's turn uses up one unit. -/
theorem Waits.exists_run_due {v : Word} {s : State} (h : Waits v s) :
    ∃ k u, k ≤ s.lat ∧ core.run k s = .next u ∧ Due u ∧ u.dev.pending = some v := by
  induction hn : s.lat generalizing s with
  | zero => exact ⟨0, s, le_rfl, rfl, h.due_of_lat hn, h.pending⟩
  | succ n ih =>
    cases hs : s.script with
    | nil => exact ⟨0, s, Nat.zero_le _, rfl, ⟨h.busy, .inl hs⟩, h.pending⟩
    | cons a rest =>
      obtain ⟨waits, lat⟩ := h.hostTurn hs
      obtain ⟨k, u, hk, hrun, due⟩ := ih waits (by omega)
      have hstep := step_host (nextTurn_of_not_due hs (.inr (.inl (by omega))))
      exact ⟨k + 1, u, by omega, (run_succ_of_step hstep).trans hrun, due⟩

/-- Every word, legal or not, is executed to its completion (R222, R223, R227). -/
theorem execute_ends (v : Word) (s : State) :
    ∃ t, execute v s = .next t ∧ t.dev.busy = false ∧ t.dev.done = true := by
  obtain ⟨i, -, he⟩ | ⟨e, -, he⟩ := execute_cases v s
  · obtain ⟨code, d, n, -, hx⟩ := exec_completes i s
    exact ⟨_, he.trans hx, rfl, rfl⟩
  · exact ⟨_, he, rfl, rfl⟩

/-! ### Reset (R253, R270, R271) -/

/-- In the reset state every register reads 0 (R270). -/
theorem readval_reset (r : Reg) : readval Device.reset r = 0#32 := by
  cases r with
  | key k | din k | dout k | iv k | chain k | msg k | hash k | rk k => exact Vector.getElem_replicate k.isLt
  | ctrl | status | cmd | len | cnt | blkrem | tail | shalenLo | shalenHi => decide

/-- What a cut transaction leaves: the draw, and its response where the draw gives one. -/
theorem cutTransaction_eq (off : Offset) (s : State) : cutTransaction off s =
    { s with
      draws := { s.draws with cut := s.draws.cut + 1 }
      log := (Config.cutResponse s.draws.cut s.dev off).toList ++ s.log } := by
  unfold cutTransaction
  cases Config.cutResponse s.draws.cut s.dev off with
  | none => rfl
  | some r => rfl

end Sys2Proof.Machine

open Sys2Proof Sys2Proof.Machine

/-- Settles O46: the pending word's turn comes within its latency, and its execution ends with BUSY = 0 and DONE = 1. -/
theorem acceptedCommandsComplete : Obligations.AcceptedCommandsComplete := by
  refine ⟨fun v s hb => ⟨accept v s, congrArg Prod.snd (busWrite_offset (r := .cmd) hb v), rfl, rfl⟩,
    fun s v hb hp hr => ?_⟩
  obtain ⟨k, u, hk, hrun, due, pending⟩ := Waits.exists_run_due ⟨hb, hp, hr⟩
  obtain ⟨t, ht, ended⟩ := execute_ends v u
  exact ⟨k, u, t, hk, hrun, pending, (step_of_due due pending).trans ht, ended⟩

/-- Settles O40: a mapped offset is a register's, where the write is discarded; every other transaction is rejected; and
the write of STATUS reaches `clearFlags` once BUSY = 0. -/
theorem busyWritesAreDiscarded : Obligations.BusyWritesAreDiscarded := by
  refine ⟨fun off v s hb mapped => ?_, fun off size v s _ bad => busWrite_of_rejected ((rejected_iff off size).2 bad) v s,
    fun v s hb bit => ?_⟩
  · obtain ⟨r, hr⟩ := (exists_regAt_iff off).2 mapped
    rw [← offset_of_regAt hr]
    exact busWrite_offset_of_busy hb v
  · have written : (busWrite 0x004#12 32 v s).2 = writeReg .status v s :=
      congrArg Prod.snd (busWrite_offset (r := .status) hb v)
    simp [written, writeReg, bit]

/-- Settles O43: reset comes after what it cuts off, which leaves the block and the script; and a reset that comes with
the completion takes the host's turn. -/
theorem resetAbandonsThePendingCommand : Obligations.ResetAbandonsThePendingCommand := by
  refine ⟨readval_reset, rfl, rfl, rfl, fun c s => ⟨_, rfl, ?_⟩, fun off size v s => ?_, fun s rest hs => ?_⟩
  · obtain ⟨n, l, hl, cut⟩ := cutOff_cases c s
    rw [performAction_reset, cut]
    exact ⟨rfl, rfl, rfl, rfl, hl⟩
  · simp only [performAction_reset, cutOff, cutTransaction_eq]
    exact ⟨rfl, rfl⟩
  · exact ⟨_, step_host (nextTurn_of_not_due hs (.inr (.inr rfl))), rfl, rfl, rfl⟩
end
